-- ==== Sys2Proof/Word.lean ====
section
/-! DEFINITION. The words that cross the block's boundary or lie in its ROM, by their widths
(30_encoding.md R71, R78, R79; 00_scope.md R7, R8). Bit 0 is the least significant bit of each. -/

namespace Sys2Proof

/-- A 64-bit command word (30_encoding.md R71). -/
abbrev CmdWord := BitVec 64

/-- A 64-bit response word, `RSP_DATA` (30_encoding.md R76). -/
abbrev DataWord := BitVec 64

/-- A 48-bit profile ROM word (30_encoding.md R78). -/
abbrev RomWord := BitVec 48

/-- A 16-bit sensor raw word (30_encoding.md R79). -/
abbrev RawWord := BitVec 16

end Sys2Proof
end

