-- ==== Sys2Proof/Config.lean ====
section
/-! DEFINITION. The implementation parameters of 00_scope.md R6, as plain data, with the spec's
defaults; and the model's free values, each an opaque constant of which nothing can be proved. -/

namespace Sys2Proof

/-- The parameters of 00_scope.md R6 that a configuration chooses (DESIGN CHOICE, log 1: they are
arguments of the model, so they stand in `State.cfg`, where every statement quantifies over them).
`S_PATTERN`, `PROFILE_LEN` and the window length are derived from these (Machine/Params.lean). -/
structure Params where
  /-- `PID_HIST_LEN`: samples in the PID history ring. -/
  pidHistLen : Nat
  /-- `PID_DSHIFT`: the fixed post-scale divisor exponent. -/
  pidDshift : Nat
  /-- `PID_ROOM`: power-on value of every history sample. -/
  pidRoom : BitVec 16
  /-- `SEQ_BASE`: room-temperature baseline of the sequencer accumulator, 1/1024 degree. -/
  seqBase : BitVec 32
  /-- `PROFILE`: the profile table, one ROM word a step (30_encoding.md R78). -/
  profile : List RomWord
  /-- `NUM_TC`: number of thermocouple devices. -/
  numTc : Nat
  /-- `AVG_LOG2`: log2 of the moving-average window. -/
  avgLog2 : Nat
  /-- `ROOM_TC`: power-on value of every window entry and of `TC_LAST`, device units. -/
  roomTc : BitVec 16
  /-- `TC_MASK`: mask applied to the raw word before the checks. -/
  tcMask : RawWord
  /-- `TC_OPEN_BIT`: bit of the masked word that reports open circuit. -/
  tcOpenBit : Nat
  /-- `TC_SHIFT`: right shift from masked word to reading. -/
  tcShift : Nat
  /-- `TC_MIN`: lower end of the plausible band, device units. -/
  tcMin : Nat
  /-- `TC_MAX`: upper end of the plausible band, device units. -/
  tcMax : Nat
  /-- `S_RANGE`: sentinel for out-of-band faults. -/
  sRange : BitVec 16
deriving DecidableEq, Repr

/-- `MIX_HALF`: mixer half-scale, fixed (00_scope.md R6; 43_mixer_pwm.md R161). -/
def mixHalf : Nat := 127

/-- `PWM_PERIOD`: PWM_TICKs per PWM period, fixed (00_scope.md R6; 43_mixer_pwm.md R165). -/
def pwmPeriod : Nat := 255

/-- The table T8 of 95_test_vectors.md: `[(duration 2, rate 256), (duration 1, rate 0)]`, no aux
field. It is the test table of the spec, not a reflow curve: `PROFILE` has no default
(92_eei_decisions.md D18). -/
def profileT8 : List RomWord := [0x201000000#48, 0x100000000#48]

/-- The defaults of 00_scope.md R6. DESIGN CHOICE (log 2): `PROFILE` is OPEN in the spec, and the
table here is T8, so that the state after reset is a state. -/
def Params.default : Params where
  pidHistLen := 40
  pidDshift := 4
  pidRoom := 25#16
  seqBase := 25600#32
  profile := profileT8
  numTc := 2
  avgLog2 := 2
  roomTc := 100#16
  tcMask := 0xFFFC#16
  tcOpenBit := 2
  tcShift := 3
  tcMin := 20
  tcMax := 1200
  sRange := 0x1FFE#16

/-- What a sensor device shifts out in one transaction: two bytes, in the order of arrival
(42_thermocouple.md R140). -/
structure SensorAnswer where
  first : BitVec 8
  second : BitVec 8
deriving DecidableEq, Repr, Inhabited

namespace Config

/-- FREE VALUE (log 5): what device `d` answers to the n-th transaction when `State.sensors` lists
no answer for it (42_thermocouple.md R140; 93_implementation_defined.md I8, "any value"). -/
opaque freeSensorAnswer : Nat → BitVec 4 → SensorAnswer

/-- FREE VALUE (log 10): `PID_LAST_RAW` after a PID_COMPUTE whose unclamped command does not fit 64
bits. By 40_pid.md R106 no state reached from reset computes one. -/
opaque freeLastRaw : Int → BitVec 64

/-- FREE VALUE (log 11): `SEQ_REM` after the decrement of a `SEQ_REM` that is 0 while a step remains.
By 10_state.md R44 no state reached from reset holds one (91_not_in_source.md N9: nothing says what
a decrement from 0 does). -/
opaque freeSeqRem : BitVec 8 → BitVec 32 → BitVec 16

end Config

end Sys2Proof
end

