-- ==== Sys2Proof/Machine/Params.lean ====
section
/-! DEFINITION. The fields of a profile ROM word (30_encoding.md R78), the values derived from the
parameters, and which configurations are legal (00_scope.md R6; 41_sequencer.md R120). -/

namespace Sys2Proof

/-- A profile step (10_state.md R31). -/
structure ProfileStep where
  /-- Duration in slow ticks, unsigned. -/
  duration : BitVec 16
  /-- Rate in 1/1024 degree per tick, two's complement. -/
  rate : BitVec 16
  /-- The optional auxiliary output. -/
  aux : Option (BitVec 8)
deriving DecidableEq, Repr

/-- `DUR`, bits 47:32 (30_encoding.md R78). -/
def romDur (w : RomWord) : BitVec 16 := w.extractLsb' 32 16

/-- `RATE`, bits 31:16 (30_encoding.md R78). -/
def romRate (w : RomWord) : BitVec 16 := w.extractLsb' 16 16

/-- `AUXP`, bit 15 (30_encoding.md R78). -/
def romAuxp (w : RomWord) : BitVec 1 := w.extractLsb' 15 1

/-- The reserved bits 14:8 (30_encoding.md R78). -/
def romReserved (w : RomWord) : BitVec 7 := w.extractLsb' 8 7

/-- `AUX`, bits 7:0 (30_encoding.md R78). -/
def romAux (w : RomWord) : BitVec 8 := w.extractLsb' 0 8

/-- A ROM word read as a profile step (30_encoding.md R78; 10_state.md R31). -/
def stepOfRom (w : RomWord) : ProfileStep where
  duration := romDur w
  rate := romRate w
  aux := if romAuxp w = 1#1 then some (romAux w) else none

/-- The ROM word that stores a profile step (30_encoding.md R78). -/
def romOfStep (q : ProfileStep) : RomWord :=
  match q.aux with
  | some a => q.duration ++ q.rate ++ 1#1 ++ 0#7 ++ a
  | none => q.duration ++ q.rate ++ 0#1 ++ 0#7 ++ 0#8

/-- `PROFILE_LEN` (00_scope.md R6). -/
def Params.profileLen (p : Params) : Nat := p.profile.length

/-- The window length `2^AVG_LOG2` (00_scope.md R6; 10_state.md R32). -/
def Params.window (p : Params) : Nat := 2 ^ p.avgLog2

/-- `S_PATTERN` = 0xFFFF >> `TC_SHIFT` (00_scope.md R6). -/
def Params.sPattern (p : Params) : BitVec 16 := 0xFFFF#16 >>> p.tcShift

/-- A ROM word is well-formed: duration at least 1, reserved bits 0, `AUX` 0 when `AUXP` is 0
(41_sequencer.md R120 items 2 and 3). -/
abbrev RomWord.Ok (w : RomWord) : Prop :=
  1 ≤ (romDur w).toNat ∧ romReserved w = 0 ∧ (romAuxp w = 0 → romAux w = 0)

/-- The profile table is well-formed (41_sequencer.md R120). Every word is `RomWord.Ok`: said with
`List.all`, so that deciding it walks the table. -/
abbrev Params.ProfileOk (p : Params) : Prop :=
  (1 ≤ p.profileLen ∧ p.profileLen ≤ 255) ∧ p.profile.all (fun w => decide (RomWord.Ok w)) = true

/-- The PID parameters lie in their ranges (00_scope.md R6). `PID_ROOM` is any 16-bit value. -/
abbrev Params.PidOk (p : Params) : Prop :=
  (1 ≤ p.pidHistLen ∧ p.pidHistLen ≤ 64) ∧ p.pidDshift ≤ 15

/-- `SEQ_BASE` lies in its range, −2^25 to 2^25−1 (00_scope.md R6). -/
abbrev Params.SeqOk (p : Params) : Prop :=
  -33554432 ≤ p.seqBase.toInt ∧ p.seqBase.toInt ≤ 33554431

/-- The reader's parameters lie in their ranges (00_scope.md R6). -/
abbrev Params.TcOk (p : Params) : Prop :=
  (1 ≤ p.numTc ∧ p.numTc ≤ 15) ∧ p.avgLog2 ≤ 3 ∧ p.roomTc.toNat ≤ 8191 ∧
  (2 ≤ p.tcOpenBit ∧ p.tcOpenBit ≤ 15) ∧ p.tcMask.getLsbD p.tcOpenBit = true ∧
  (p.tcOpenBit < p.tcShift ∧ p.tcShift ≤ 15) ∧
  (p.tcMin ≤ p.tcMax ∧ p.tcMax ≤ 8191) ∧ p.sRange ≠ p.sPattern

/-- The configuration is legal: every parameter in its range and the table well-formed (00_scope.md
R6; 41_sequencer.md R120). A configuration that is not legal is refused by the step. -/
abbrev Params.Legal (p : Params) : Prop :=
  p.PidOk ∧ p.SeqOk ∧ p.ProfileOk ∧ p.TcOk

end Sys2Proof
end

