-- ==== Sys2Proof/Syntax.lean ====
section
/-! DEFINITION. The commands of 30_encoding.md R74, one constructor a row of opcode_table.json, the
registers READ_REG names (10_state.md R42), and the pseudo-instructions of 30_encoding.md R82. -/

namespace Sys2Proof

/-- The registers of 10_state.md R42, in the order of its table. An indexed row carries its index. -/
inductive Reg where
  | gains
  | pidInt
  | pidHidx
  | pidLastCmd
  | pidLastRaw
  | pidFlags
  | pidDshift
  | pidHistLen
  | seqIdx
  | seqRem
  | seqAcc
  | profileLen
  | tcLast (d : BitVec 4)
  | tcAidx (d : BitVec 4)
  | tcFault (d : BitVec 4)
  | tcFcode (d : BitVec 4)
  | tcAvg (d : BitVec 4) (j : BitVec 3)
  | chA
  | chB
  | pwmPhase
  | outs
  | pidHist (i : BitVec 6)
  | profile (k : BitVec 8)
deriving DecidableEq, Repr

/-- The ten commands (30_encoding.md R72, R74), with their operands as the rules see them. -/
inductive Instr where
  /-- NOP (44_system.md R180). -/
  | nop
  /-- PID_COMPUTE cur, tgt, both two's complement (40_pid.md R100). -/
  | pidCompute (cur tgt : BitVec 16)
  /-- PID_SET_GAINS kp, ki, kd (40_pid.md R107). -/
  | pidSetGains (kp ki kd : BitVec 4)
  /-- PID_RESET (40_pid.md R108). -/
  | pidReset
  /-- SEQ_ADVANCE (41_sequencer.md R121). -/
  | seqAdvance
  /-- SEQ_RESET (41_sequencer.md R127). -/
  | seqReset
  /-- TC_READ d (42_thermocouple.md R142). -/
  | tcRead (d : BitVec 4)
  /-- MIX c (43_mixer_pwm.md R160). -/
  | mix (c : BitVec 8)
  /-- MIX_MANUAL a, b (43_mixer_pwm.md R163). -/
  | mixManual (a b : BitVec 8)
  /-- READ_REG n, the number already turned into the register it names (44_system.md R181). -/
  | readReg (r : Reg)
deriving DecidableEq, Repr

/-- The pseudo-instructions of 30_encoding.md R82. -/
inductive Pseudo where
  | gains (kp ki kd : BitVec 4)
  | heatersOff
  | manual (a b : BitVec 8)
  | sample
  | control (cur tgt : BitVec 16)
  | restart
deriving DecidableEq, Repr

end Sys2Proof
end

