-- ==== Sys2Proof/WellFormed.lean ====
section
/-! DEFINITION. Which commands exist under a configuration: TC_READ's device and READ_REG's register
must exist (30_encoding.md R72, R73; 10_state.md R42; 44_system.md R183). -/

namespace Sys2Proof

/-- The register exists under the parameters (10_state.md R42). -/
def Reg.wf (p : Params) : Reg → Bool
  | .gains => true
  | .pidInt => true
  | .pidHidx => true
  | .pidLastCmd => true
  | .pidLastRaw => true
  | .pidFlags => true
  | .pidDshift => true
  | .pidHistLen => true
  | .seqIdx => true
  | .seqRem => true
  | .seqAcc => true
  | .profileLen => true
  | .tcLast d => decide (d.toNat < p.numTc)
  | .tcAidx d => decide (d.toNat < p.numTc)
  | .tcFault d => decide (d.toNat < p.numTc)
  | .tcFcode d => decide (d.toNat < p.numTc)
  | .tcAvg d j => decide (d.toNat < p.numTc) && decide (j.toNat < p.window)
  | .chA => true
  | .chB => true
  | .pwmPhase => true
  | .outs => true
  | .pidHist i => decide (i.toNat < p.pidHistLen)
  | .profile k => decide (k.toNat < p.profileLen)

/-- The command exists under the parameters (30_encoding.md R72). -/
def Instr.wf (p : Params) : Instr → Bool
  | .nop => true
  | .pidCompute _ _ => true
  | .pidSetGains _ _ _ => true
  | .pidReset => true
  | .seqAdvance => true
  | .seqReset => true
  | .tcRead d => decide (d.toNat < p.numTc)
  | .mix _ => true
  | .mixManual _ _ => true
  | .readReg r => r.wf p

end Sys2Proof
end

