-- ==== Sys2Proof/Decode.lean ====
section
/-! DEFINITION. The decoder, total over all 2^64 words (30_encoding.md R75), the encoder, written
from the encoding tables of 30_encoding.md R71, R72 and R74, the textual form of 30_encoding.md R81
and its assembler, and `decodeTableWord`. -/

namespace Sys2Proof

/-- Why a word is ILLEGAL (30_encoding.md R73). The block does not report which of these it was: the
outcome is the same for all (44_system.md R182). -/
inductive IllegalWord where
  /-- `OP` is not in the map of 30_encoding.md R74. -/
  | opcode
  /-- `RSV` is not 0. -/
  | reserved
  /-- A field 30_encoding.md R72 marks 0 is not 0. -/
  | field
  /-- TC_READ of a device that does not exist. -/
  | device
  /-- READ_REG of an unassigned register number. -/
  | register
deriving DecidableEq, Repr

/-- What the decoder reads from a word: a command, or ILLEGAL with the reason. -/
inductive Decoded where
  | instr (i : Instr)
  | illegal (why : IllegalWord)
deriving DecidableEq, Repr

/-- The command, if the word is one. -/
def Decoded.instr? : Decoded → Option Instr
  | .instr i => some i
  | .illegal _ => none

/-! The fields of a command word (30_encoding.md R71). -/

/-- `OP`, bits 63:56. -/
def opField (w : CmdWord) : BitVec 8 := w.extractLsb' 56 8

/-- `DEV`, bits 55:52. -/
def devField (w : CmdWord) : BitVec 4 := w.extractLsb' 52 4

/-- `RSV`, bits 51:32. -/
def rsvField (w : CmdWord) : BitVec 20 := w.extractLsb' 32 20

/-- `A`, bits 31:16. -/
def aField (w : CmdWord) : BitVec 16 := w.extractLsb' 16 16

/-- `B`, bits 15:0. -/
def bField (w : CmdWord) : BitVec 16 := w.extractLsb' 0 16

/-! Register numbers (10_state.md R42). -/

/-- The register's number (10_state.md R42). -/
def Reg.num : Reg → BitVec 16
  | .gains => 0x0001#16
  | .pidInt => 0x0002#16
  | .pidHidx => 0x0003#16
  | .pidLastCmd => 0x0004#16
  | .pidLastRaw => 0x0005#16
  | .pidFlags => 0x0006#16
  | .pidDshift => 0x0007#16
  | .pidHistLen => 0x0008#16
  | .seqIdx => 0x0010#16
  | .seqRem => 0x0011#16
  | .seqAcc => 0x0012#16
  | .profileLen => 0x0013#16
  | .tcLast d => BitVec.ofNat 16 (0x1000 + 0x10 * d.toNat)
  | .tcAidx d => BitVec.ofNat 16 (0x1001 + 0x10 * d.toNat)
  | .tcFault d => BitVec.ofNat 16 (0x1002 + 0x10 * d.toNat)
  | .tcFcode d => BitVec.ofNat 16 (0x1003 + 0x10 * d.toNat)
  | .tcAvg d j => BitVec.ofNat 16 (0x1004 + 0x10 * d.toNat + j.toNat)
  | .chA => 0x0100#16
  | .chB => 0x0101#16
  | .pwmPhase => 0x0102#16
  | .outs => 0x0103#16
  | .pidHist i => BitVec.ofNat 16 (0x0200 + i.toNat)
  | .profile k => BitVec.ofNat 16 (0x0300 + k.toNat)

/-- The rows of 10_state.md R42 that carry no index. -/
def fixedRegs : List Reg :=
  [.gains, .pidInt, .pidHidx, .pidLastCmd, .pidLastRaw, .pidFlags, .pidDshift, .pidHistLen,
   .seqIdx, .seqRem, .seqAcc, .profileLen, .chA, .chB, .pwmPhase, .outs]

/-- The thermocouple row at offset `o` of device `d`'s sixteen numbers (10_state.md R42). -/
def tcRegOf (p : Params) (d o : Nat) : Option Reg :=
  if d < p.numTc then
    if o = 0 then some (.tcLast (BitVec.ofNat 4 d))
    else if o = 1 then some (.tcAidx (BitVec.ofNat 4 d))
    else if o = 2 then some (.tcFault (BitVec.ofNat 4 d))
    else if o = 3 then some (.tcFcode (BitVec.ofNat 4 d))
    else if o - 4 < p.window then some (.tcAvg (BitVec.ofNat 4 d) (BitVec.ofNat 3 (o - 4)))
    else none
  else none

/-- The rows of 10_state.md R42 that carry an index, by number. -/
def indexedRegOf (p : Params) (n : Nat) : Option Reg :=
  if 0x0200 ≤ n ∧ n < 0x0200 + p.pidHistLen then some (.pidHist (BitVec.ofNat 6 (n - 0x0200)))
  else if 0x0300 ≤ n ∧ n < 0x0300 + p.profileLen then
    some (.profile (BitVec.ofNat 8 (n - 0x0300)))
  else if 0x1000 ≤ n then tcRegOf p ((n - 0x1000) / 0x10) ((n - 0x1000) % 0x10)
  else none

/-- The register a number names under the parameters, `none` where the number is unassigned
(10_state.md R42; `assigned(n)` of 30_encoding.md R75; 44_system.md R183). -/
def regOfNum (p : Params) (n : BitVec 16) : Option Reg :=
  match fixedRegs.find? (fun r => r.num == n) with
  | some r => some r
  | none => indexedRegOf p n.toNat

/-! The opcodes (30_encoding.md R74). -/

def opNop : BitVec 8 := 0x00#8
def opPidCompute : BitVec 8 := 0x01#8
def opPidSetGains : BitVec 8 := 0x02#8
def opPidReset : BitVec 8 := 0x03#8
def opSeqAdvance : BitVec 8 := 0x10#8
def opSeqReset : BitVec 8 := 0x11#8
def opTcRead : BitVec 8 := 0x20#8
def opMix : BitVec 8 := 0x30#8
def opMixManual : BitVec 8 := 0x31#8
def opReadReg : BitVec 8 := 0x40#8

/-- `ok` decides between the command and a non-zero field marked 0. -/
def orField (ok : Bool) (i : Instr) : Decoded := if ok then .instr i else .illegal .field

/-- The command an opcode and its three operand fields stand for, `RSV` already found 0
(30_encoding.md R75, the `case` on `op`). -/
def decodeFields (p : Params) (op : BitVec 8) (dev : BitVec 4) (a b : BitVec 16) : Decoded :=
  if op = opNop then orField (dev == 0 && a == 0 && b == 0) .nop
  else if op = opPidCompute then orField (dev == 0) (.pidCompute a b)
  else if op = opPidSetGains then
    orField (dev == 0 && a == 0 && b.extractLsb' 12 4 == 0)
      (.pidSetGains (b.extractLsb' 8 4) (b.extractLsb' 4 4) (b.extractLsb' 0 4))
  else if op = opPidReset then orField (dev == 0 && a == 0 && b == 0) .pidReset
  else if op = opSeqAdvance then orField (dev == 0 && a == 0 && b == 0) .seqAdvance
  else if op = opSeqReset then orField (dev == 0 && a == 0 && b == 0) .seqReset
  else if op = opTcRead then
    if dev.toNat < p.numTc then orField (a == 0 && b == 0) (.tcRead dev) else .illegal .device
  else if op = opMix then
    orField (dev == 0 && a == 0 && b.extractLsb' 8 8 == 0) (.mix (b.extractLsb' 0 8))
  else if op = opMixManual then
    orField (dev == 0 && a == 0) (.mixManual (b.extractLsb' 8 8) (b.extractLsb' 0 8))
  else if op = opReadReg then
    match regOfNum p a with
    | some r => orField (dev == 0 && b == 0) (.readReg r)
    | none => .illegal .register
  else .illegal .opcode

/-- The decoder (30_encoding.md R75), total over all 2^64 words. -/
def decode (p : Params) (w : CmdWord) : Decoded :=
  if rsvField w = 0 then decodeFields p (opField w) (devField w) (aField w) (bField w)
  else .illegal .reserved

/-! The encoder. -/

/-- A command word from its fields, `RSV` 0 (30_encoding.md R71). -/
def cmdWord (op : BitVec 8) (dev : BitVec 4) (a b : BitVec 16) : CmdWord :=
  op ++ dev ++ 0#20 ++ a ++ b

/-- The word of a command (30_encoding.md R71, R72, R74). -/
def encode : Instr → CmdWord
  | .nop => cmdWord opNop 0 0 0
  | .pidCompute cur tgt => cmdWord opPidCompute 0 cur tgt
  | .pidSetGains kp ki kd => cmdWord opPidSetGains 0 0 (0#4 ++ kp ++ ki ++ kd)
  | .pidReset => cmdWord opPidReset 0 0 0
  | .seqAdvance => cmdWord opSeqAdvance 0 0 0
  | .seqReset => cmdWord opSeqReset 0 0 0
  | .tcRead d => cmdWord opTcRead d 0 0
  | .mix c => cmdWord opMix 0 0 (0#8 ++ c)
  | .mixManual a b => cmdWord opMixManual 0 0 (a ++ b)
  | .readReg r => cmdWord opReadReg 0 r.num 0

/-! The textual form and its assembler (30_encoding.md R81). -/

/-- The operands of a command as integers, signed where the operand is signed (30_encoding.md R81). -/
def Instr.operands : Instr → List Int
  | .nop => []
  | .pidCompute cur tgt => [cur.toInt, tgt.toInt]
  | .pidSetGains kp ki kd => [kp.toNat, ki.toNat, kd.toNat]
  | .pidReset => []
  | .seqAdvance => []
  | .seqReset => []
  | .tcRead d => [d.toNat]
  | .mix c => [c.toNat]
  | .mixManual a b => [a.toNat, b.toNat]
  | .readReg r => [r.num.toNat]

/-- The mnemonic of a command (30_encoding.md R74, R81). -/
def Instr.mnemonic : Instr → String
  | .nop => "NOP"
  | .pidCompute _ _ => "PID_COMPUTE"
  | .pidSetGains _ _ _ => "PID_SET_GAINS"
  | .pidReset => "PID_RESET"
  | .seqAdvance => "SEQ_ADVANCE"
  | .seqReset => "SEQ_RESET"
  | .tcRead _ => "TC_READ"
  | .mix _ => "MIX"
  | .mixManual _ _ => "MIX_MANUAL"
  | .readReg _ => "READ_REG"

/-- The text of a command: the mnemonic, a space, the operands in decimal, separated by a comma and
a space (30_encoding.md R81). -/
def Instr.text (i : Instr) : String :=
  match i.operands with
  | [] => i.mnemonic
  | o :: os => i.mnemonic ++ " " ++ os.foldl (fun t v => t ++ ", " ++ toString v) (toString o)

/-- `v` as an `n`-bit unsigned operand, refused out of its range (30_encoding.md R81). -/
def unsignedOperand (n : Nat) (v : Int) : Option (BitVec n) :=
  if 0 ≤ v ∧ v < 2 ^ n then some (BitVec.ofInt n v) else none

/-- `v` as a 16-bit signed operand, refused out of its range (30_encoding.md R81). -/
def signedOperand (v : Int) : Option (BitVec 16) :=
  if -32768 ≤ v ∧ v ≤ 32767 then some (BitVec.ofInt 16 v) else none

/-- The command a mnemonic and its operands name (30_encoding.md R81): an operand out of its range
is refused, never truncated. -/
def assembleInstr (p : Params) (mnemonic : String) (ops : List Int) : Option Instr :=
  match mnemonic, ops with
  | "NOP", [] => some .nop
  | "PID_COMPUTE", [cur, tgt] => do
    let c ← signedOperand cur
    let t ← signedOperand tgt
    some (.pidCompute c t)
  | "PID_SET_GAINS", [kp, ki, kd] => do
    let a ← unsignedOperand 4 kp
    let b ← unsignedOperand 4 ki
    let c ← unsignedOperand 4 kd
    some (.pidSetGains a b c)
  | "PID_RESET", [] => some .pidReset
  | "SEQ_ADVANCE", [] => some .seqAdvance
  | "SEQ_RESET", [] => some .seqReset
  | "TC_READ", [d] => do
    let v ← unsignedOperand 4 d
    if v.toNat < p.numTc then some (.tcRead v) else none
  | "MIX", [c] => do
    let v ← unsignedOperand 8 c
    some (.mix v)
  | "MIX_MANUAL", [a, b] => do
    let x ← unsignedOperand 8 a
    let y ← unsignedOperand 8 b
    some (.mixManual x y)
  | "READ_REG", [n] => do
    let v ← unsignedOperand 16 n
    let r ← regOfNum p v
    some (.readReg r)
  | _, _ => none

/-- The word of a line of text (30_encoding.md R81). -/
def assemble (p : Params) (mnemonic : String) (ops : List Int) : Option CmdWord :=
  (assembleInstr p mnemonic ops).map encode

/-! The host's reading of a table word. -/

/-- The instruction the decoder reads from an instruction whose bits are `w`, under the default
parameters (log 19). Every command is one 64-bit word, taken whole, so no byte order arises
(20_memory.md R59 item 2). -/
def decodeTableWord (nbits w : Nat) : Option Instr :=
  if nbits ≤ 64 then (decode Params.default (BitVec.ofNat 64 (w % 2 ^ nbits))).instr? else none

end Sys2Proof
end

