-- ==== Sys2Proof/Machine/State.lean ====
section
/-! DEFINITION. The state of the block (10_state.md), as plain data, with its power-on values
(10_state.md R43), the reasons a step can stop, the events, and the inputs a step takes. -/

namespace Sys2Proof.Machine

/-- PID controller state (10_state.md R22, R24 to R26). -/
structure Pid where
  /-- `GAIN_KP`. -/
  kp : BitVec 4
  /-- `GAIN_KI`. -/
  ki : BitVec 4
  /-- `GAIN_KD`. -/
  kd : BitVec 4
  /-- `PID_INT`, two's complement. -/
  int : BitVec 64
  /-- `PID_HIST`, two's complement entries. -/
  hist : List (BitVec 16)
  /-- `PID_HIDX`, the index of the oldest entry. -/
  hidx : BitVec 6
  /-- `PID_LAST_CMD`. -/
  lastCmd : BitVec 8
  /-- `PID_LAST_RAW`, two's complement. -/
  lastRaw : BitVec 64
  /-- `PID_FLAGS`: bit 0 INTEG, bit 1 SAT_HI, bit 2 SAT_LO. -/
  flags : BitVec 3
deriving DecidableEq, Repr

/-- Profile cursor (10_state.md R27 to R29). -/
structure Cursor where
  /-- `SEQ_IDX`. -/
  idx : BitVec 8
  /-- `SEQ_REM`. -/
  rem : BitVec 16
  /-- `SEQ_ACC`, two's complement. -/
  acc : BitVec 32
deriving DecidableEq, Repr

/-- Thermocouple reader state of one device (10_state.md R32 to R35). -/
structure TcDev where
  /-- `TC_AVG[d]`. -/
  avg : List (BitVec 16)
  /-- `TC_AIDX[d]`. -/
  aidx : BitVec 3
  /-- `TC_LAST[d]`. -/
  last : BitVec 16
  /-- `TC_FAULT[d]`. -/
  fault : BitVec 1
  /-- `TC_FCODE[d]`. -/
  fcode : BitVec 4
deriving DecidableEq, Repr

/-- Mixer duties and PWM output stage (10_state.md R36 to R38). -/
structure Pwm where
  /-- `CH_A`. -/
  chA : BitVec 8
  /-- `CH_B`. -/
  chB : BitVec 8
  /-- `PWM_PHASE`. -/
  phase : BitVec 8
  /-- `OUT_A`. -/
  outA : BitVec 1
  /-- `OUT_B`. -/
  outB : BitVec 1
deriving DecidableEq, Repr

/-- The fault events the block emits to the host (60_exceptions.md R190, R192). -/
inductive Event where
  /-- TFAULT(d, code, raw): a TC_READ of device `d` found a fault. -/
  | tfault (d code : BitVec 4) (raw : RawWord)
  /-- GFAULT(op): an ILLEGAL command word with this `OP` byte. -/
  | gfault (op : BitVec 8)
deriving DecidableEq, Repr

/-- One step of the outside world (00_scope.md R3; 70_reset_and_hazards.md R210). -/
inductive Input where
  /-- The host issues a command word (30_encoding.md R70). -/
  | command (w : CmdWord)
  /-- The fast-tick timer delivers PWM_TICK (43_mixer_pwm.md R166). -/
  | pwmTick
  /-- The reset input is asserted and released (70_reset_and_hazards.md R210; log 12). -/
  | powerOnReset
deriving DecidableEq, Repr

/-- The state. `cfg`, `inputs`, `sensors` and `draws` are the model's own fields, no state of the
block (logs 1, 3 and 5); `events` and `targetRange` are what the spec tells a model to record. -/
structure State where
  /-- The parameters (00_scope.md R6), constant under every step (log 1). -/
  cfg : Params
  /-- PID controller. -/
  pid : Pid
  /-- Profile sequencer. -/
  seq : Cursor
  /-- Thermocouple reader, device 0 first. -/
  tc : List TcDev
  /-- Mixer and PWM output stage. -/
  pwm : Pwm
  /-- `RSP_STATUS` (10_state.md R39). -/
  rspStatus : BitVec 4
  /-- `RSP_DATA` (10_state.md R39). -/
  rspData : DataWord
  /-- The events of the most recent step, in order (60_exceptions.md R195, R197; log 13). -/
  events : List Event
  /-- The model fault TargetRange has been recorded (60_exceptions.md R196; log 8). -/
  targetRange : Bool
  /-- The schedule: what the host, the timer and the reset input do next, oldest first (log 3). -/
  inputs : List Input
  /-- What the sensors answer to the next transactions, oldest first (log 5). -/
  sensors : List SensorAnswer
  /-- How many sensor transactions have been made (log 5). -/
  draws : Nat
deriving DecidableEq, Repr

/-- Why the machine stops. -/
inductive Fault where
  /-- IndexRange (60_exceptions.md R196; 20_memory.md R51): a rule formed an index outside its
  memory. Raised by `execPidCompute`, `execSeqAdvance`, `execTcRead` and `execReadReg`. Safe: the
  machine stops, and no state reached from reset gets there (10_state.md R44; log 9). -/
  | indexRange
deriving DecidableEq, Repr

/-- Why the model gives a step no meaning. -/
inductive Refusal where
  /-- Raised by `exec`'s arm of an instruction that has no meaning yet. Safe. -/
  | notModelled (mnemonic : String)
  /-- Raised by `step`: the configuration lies outside 00_scope.md R6's ranges or its table fails
  41_sequencer.md R120, and "the model has no run at all for it" (60_exceptions.md R196; log 15).
  Safe. -/
  | illegalConfig
deriving DecidableEq, Repr

/-- The PID controller after power-on reset (10_state.md R43). -/
def Pid.powerOn (p : Params) : Pid where
  kp := 0
  ki := 0
  kd := 0
  int := 0
  hist := List.replicate p.pidHistLen p.pidRoom
  hidx := 0
  lastCmd := 0
  lastRaw := 0
  flags := 0

/-- The cursor after power-on reset (10_state.md R43): step 0, that step's duration, the baseline.
An empty table is refused before it is read (41_sequencer.md R120). -/
def Cursor.powerOn (p : Params) : Cursor where
  idx := 0
  rem := (p.profile.map romDur).headD 0
  acc := p.seqBase

/-- One device's reader after power-on reset (10_state.md R43). -/
def TcDev.powerOn (p : Params) : TcDev where
  avg := List.replicate p.window p.roomTc
  aidx := 0
  last := p.roomTc
  fault := 0
  fcode := 0

/-- Mixer and PWM output stage after power-on reset (10_state.md R43): heaters off. -/
def Pwm.powerOn : Pwm where
  chA := 0
  chB := 0
  phase := 0
  outA := 0
  outB := 0

/-- The block right after power-on reset under the parameters `p` (10_state.md R43;
70_reset_and_hazards.md R210). The spec gives every register's value; the model's own fields are
empty (DESIGN CHOICE, logs 3, 5, 8 and 13). -/
def State.powerOn (p : Params) : State where
  cfg := p
  pid := Pid.powerOn p
  seq := Cursor.powerOn p
  tc := List.replicate p.numTc (TcDev.powerOn p)
  pwm := Pwm.powerOn
  rspStatus := 0
  rspData := 0
  events := []
  targetRange := false
  inputs := []
  sensors := []
  draws := 0

/-- The machine right after reset, under the default parameters (logs 1 and 2). -/
def State.reset : State := State.powerOn Params.default

end Sys2Proof.Machine
end

