-- ==== Sys2Proof/Machine/Ops.lean ====
section
/-! DEFINITION. The pseudocode's primitives (00_scope.md R9 to R13), the internal memories
(20_memory.md R51 to R54), the sensor transaction (42_thermocouple.md R140), the response
(30_encoding.md R76), and what an ILLEGAL word does (44_system.md R182). -/

namespace Sys2Proof.Machine

/-! Numbers (00_scope.md R9 to R11). `sext_N` is `BitVec.toInt`, `zext_N` is `BitVec.toNat`, `wrap_N`
and `low_N` are `BitVec.ofInt N`. -/

/-- `v << k`: v·2^k exactly (00_scope.md R10). -/
def shl (v : Int) (k : Nat) : Int := v * 2 ^ k

/-- `v >>> k`: floor(v / 2^k), rounding toward minus infinity (00_scope.md R10). The divisor is
positive, so Lean's `/` on `Int` is the floor. -/
def asr (v : Int) (k : Nat) : Int := v / 2 ^ k

/-- `clamp(v, lo, hi)` (00_scope.md R11). -/
def clamp (v lo hi : Int) : Int := if v < lo then lo else if v > hi then hi else v

/-! The internal memories (20_memory.md R51). -/

/-- Element `i` of a memory of `n` elements; `none` for an index outside it, which is the model fault
IndexRange (20_memory.md R51). -/
def memRead {α : Type} (m : List α) (n i : Nat) : Option α := if i < n then m[i]? else none

/-- `HistPushPopOldest(v)` (20_memory.md R52): the oldest sample, and the unit with `v` in its place
and the index advanced. -/
def histPushPopOldest (p : Params) (v : BitVec 16) (u : Pid) : Option (BitVec 16 × Pid) :=
  match memRead u.hist p.pidHistLen u.hidx.toNat with
  | some old =>
    some (old, { u with
      hist := u.hist.set u.hidx.toNat v
      hidx := BitVec.ofNat 6 ((u.hidx.toNat + 1) % p.pidHistLen) })
  | none => none

/-- The window memory of a device has its length and its index lies in it (20_memory.md R51). -/
abbrev TcDev.WindowOk (p : Params) (t : TcDev) : Prop :=
  t.avg.length = p.window ∧ t.aidx.toNat < p.window

/-- `AvgPush(d, v)` on the device's registers (20_memory.md R53). -/
def avgPush (p : Params) (v : BitVec 16) (t : TcDev) : TcDev :=
  { t with
    avg := t.avg.set t.aidx.toNat v
    aidx := BitVec.ofNat 3 ((t.aidx.toNat + 1) % p.window) }

/-- The sum of a window's entries (20_memory.md R53). -/
def avgSum (t : TcDev) : Nat := (t.avg.map BitVec.toNat).sum

/-- `AvgMean(d)`: the floor of the mean of the window, by a shift (20_memory.md R53). -/
def avgMean (p : Params) (t : TcDev) : BitVec 16 := BitVec.ofNat 16 (avgSum t / 2 ^ p.avgLog2)

/-- `ProfRead(k)` (20_memory.md R54); `none` for an index outside the table. -/
def profRead (p : Params) (k : Nat) : Option ProfileStep :=
  (memRead p.profile p.profileLen k).map stepOfRom

/-! The sensor transaction (42_thermocouple.md R140). -/

/-- The raw word: the first byte shifted in is bits 15:8, the second bits 7:0 (20_memory.md R59;
PRESUMED, log 6). -/
def rawOfAnswer (a : SensorAnswer) : RawWord := a.first ++ a.second

/-- What device `d` answers to the next transaction: the oldest listed answer, and a free value when
none is listed (log 5). -/
def sensorAnswer (d : BitVec 4) (s : State) : SensorAnswer :=
  match s.sensors with
  | a :: _ => a
  | [] => Config.freeSensorAnswer s.draws d

/-- The raw word of the next `draw SensorWord(d)` (00_scope.md R13; 42_thermocouple.md R140). -/
def sensorWord (d : BitVec 4) (s : State) : RawWord := rawOfAnswer (sensorAnswer d s)

/-- The outside world after one transaction. -/
def State.afterDraw (s : State) : State :=
  { s with sensors := s.sensors.tail, draws := s.draws + 1 }

/-! Writing a unit, and the response. -/

/-- Write the PID unit's registers. -/
def State.setPid (s : State) (u : Pid) : State := { s with pid := u }

/-- Write the cursor. -/
def State.setSeq (s : State) (c : Cursor) : State := { s with seq := c }

/-- Write device `d`'s registers. -/
def State.setTc (s : State) (d : BitVec 4) (t : TcDev) : State :=
  { s with tc := s.tc.set d.toNat t }

/-- Write the mixer's and the output stage's registers. -/
def State.setPwm (s : State) (o : Pwm) : State := { s with pwm := o }

/-- Record the model fault TargetRange if `b`; it is never cleared (60_exceptions.md R196; log 8). -/
def State.recordTargetRange (s : State) (b : Bool) : State :=
  { s with targetRange := s.targetRange || b }

/-- The response statuses (30_encoding.md R76). -/
inductive Status where
  | ok
  | illegal
  | sensorFault
deriving DecidableEq, Repr

/-- The 4-bit code of a status (30_encoding.md R76). -/
def statusCode : Status → BitVec 4
  | .ok => 0
  | .illegal => 1
  | .sensorFault => 2

/-- `respond(STATUS, DATA)`, with the events the command's step emitted (00_scope.md R13;
30_encoding.md R76; 60_exceptions.md R195). -/
def State.respond (s : State) (st : Status) (data : DataWord) (evs : List Event) : State :=
  { s with rspStatus := statusCode st, rspData := data, events := evs }

/-- What an ILLEGAL word does (44_system.md R182): the response ILLEGAL with the word itself, one
GFAULT with its `OP` byte, and nothing else. It is the one thing on this block that stands where
other machines take an exception: there is no trap, no vector and no saved register
(60_exceptions.md R193), so there is no return either (60_exceptions.md R198). -/
def takeIllegal (w : CmdWord) (s : State) : State :=
  s.respond .illegal w [.gfault (opField w)]

end Sys2Proof.Machine
end

