-- ==== Sys2Proof/Machine/MixerPwm.lean ====
section
/-! DEFINITION. MIX, MIX_MANUAL and PWM_TICK (43_mixer_pwm.md R160 to R166). -/

namespace Sys2Proof.Machine

/-- Channel a's base: one quarter of the command (43_mixer_pwm.md R160). -/
def mixBaseA (c : BitVec 8) : Nat := c.toNat / 4

/-- Channel b's base: the remainder (43_mixer_pwm.md R160). -/
def mixBaseB (c : BitVec 8) : Nat := c.toNat - mixBaseA c

/-- Channel a after the carry of b's excess over half-scale (43_mixer_pwm.md R160). -/
def mixCarryA (c : BitVec 8) : Nat :=
  if mixBaseB c > mixHalf then mixBaseA c + (mixBaseB c - mixHalf) else mixBaseA c

/-- A base doubled, or full-scale once it exceeds half-scale (43_mixer_pwm.md R160). -/
def mixDouble (x : Nat) : BitVec 8 := if x > mixHalf then 255 else BitVec.ofNat 8 (2 * x)

/-- Channel a of the mix (43_mixer_pwm.md R160). -/
def mixA (c : BitVec 8) : BitVec 8 := mixDouble (mixCarryA c)

/-- Channel b of the mix (43_mixer_pwm.md R160). -/
def mixB (c : BitVec 8) : BitVec 8 := mixDouble (mixBaseB c)

/-- The response of MIX and MIX_MANUAL (30_encoding.md R77): `CH_A` 15:8, `CH_B` 7:0. -/
def mixData (a b : BitVec 8) : DataWord := 0#48 ++ a ++ b

/-- Write both duties in one step and respond with them (43_mixer_pwm.md R160, R163; 20_memory.md
R56). -/
def State.writeDuties (s : State) (a b : BitVec 8) : State :=
  (s.setPwm { s.pwm with chA := a, chB := b }).respond .ok (mixData a b) []

/-- MIX c (43_mixer_pwm.md R160). -/
def execMix (c : BitVec 8) (s : State) : Host.Outcome State Fault Refusal :=
  .next (s.writeDuties (mixA c) (mixB c))

/-- MIX_MANUAL a, b (43_mixer_pwm.md R163). -/
def execMixManual (a b : BitVec 8) (s : State) : Host.Outcome State Fault Refusal :=
  .next (s.writeDuties a b)

/-- The output stage after a PWM_TICK (43_mixer_pwm.md R166). -/
def pwmNext (o : Pwm) : Pwm :=
  { o with
    outA := BitVec.ofBool (decide (o.phase.toNat < o.chA.toNat))
    outB := BitVec.ofBool (decide (o.phase.toNat < o.chB.toNat))
    phase := BitVec.ofNat 8 ((o.phase.toNat + 1) % pwmPeriod) }

/-- PWM_TICK (43_mixer_pwm.md R166): an event, with no response; it emits no fault event. -/
def pwmTick (s : State) : State := { s.setPwm (pwmNext s.pwm) with events := [] }

end Sys2Proof.Machine
end

