-- ==== Sys2Proof/Machine/Flags.lean ====
section
/-! DEFINITION. Every flag the block computes (10_state.md R40): the anti-windup decision and
`PID_FLAGS` (40_pid.md R100, R101), the sequencer's TERMINAL and TGT_OVF (41_sequencer.md R122, R125),
and the reader's fault code and flag (42_thermocouple.md R142; 60_exceptions.md R191). -/

namespace Sys2Proof.Machine

/-- `WindupAllows(raw, err)` (40_pid.md R101). -/
def windupAllows (raw err : Int) : Bool :=
  decide (0 ≤ raw ∧ raw ≤ 255) || decide (raw > 255 ∧ err < 0) || decide (raw < 0 ∧ err > 0)

/-- `PID_FLAGS`: INTEG bit 0, SAT_HI bit 1, SAT_LO bit 2 (10_state.md R26; 40_pid.md R100). -/
def pidFlags (raw : Int) (integ : Bool) : BitVec 3 :=
  BitVec.ofBool (decide (raw < 0)) ++ BitVec.ofBool (decide (raw > 255)) ++ BitVec.ofBool integ

/-- The cursor is terminal (10_state.md R30; 41_sequencer.md R121 tests `>=`). -/
def terminal (p : Params) (c : Cursor) : Bool := decide (p.profileLen ≤ c.idx.toNat)

/-- The target in whole degrees (41_sequencer.md R123). -/
def target (c : Cursor) : Int := asr c.acc.toInt 10

/-- TGT_OVF: the target lies outside the signed 16-bit range (41_sequencer.md R125). -/
def targetOverflow (c : Cursor) : Bool := !decide (-32768 ≤ target c ∧ target c ≤ 32767)

/-- The fault kinds of a TC_READ (60_exceptions.md R191). -/
inductive FaultKind where
  /-- NONE: no fault. -/
  | noFault
  /-- ZERO: the masked word is all zero. -/
  | zero
  /-- ONES: the masked word is all one. -/
  | ones
  /-- OPEN: the open-circuit bit is set. -/
  | openCircuit
  /-- RANGE: the reading is outside the band. -/
  | outOfBand
deriving DecidableEq, Repr

/-- The 4-bit code of a fault kind (60_exceptions.md R191). -/
def faultCode : FaultKind → BitVec 4
  | .noFault => 0
  | .zero => 1
  | .ones => 2
  | .openCircuit => 3
  | .outOfBand => 4

/-- The masked word (42_thermocouple.md R142). -/
def maskedWord (p : Params) (raw : RawWord) : RawWord := raw &&& p.tcMask

/-- The reading, in device units (42_thermocouple.md R142). -/
def reading (p : Params) (raw : RawWord) : BitVec 16 := maskedWord p raw >>> p.tcShift

/-- The fault kind of a raw word: ZERO, ONES, OPEN, RANGE, the first that applies (42_thermocouple.md
R142 to R144; 60_exceptions.md R194). -/
def classify (p : Params) (raw : RawWord) : FaultKind :=
  let m := maskedWord p raw
  let v := reading p raw
  if m = 0 then .zero
  else if m = p.tcMask then .ones
  else if m.getLsbD p.tcOpenBit = true then .openCircuit
  else if v.toNat < p.tcMin ∨ v.toNat > p.tcMax then .outOfBand
  else .noFault

/-- The sentinel substituted for the reading of a faulted read (42_thermocouple.md R142). -/
def sentinel (p : Params) : FaultKind → BitVec 16
  | .outOfBand => p.sRange
  | _ => p.sPattern

end Sys2Proof.Machine
end

