-- ==== Sys2Proof/Machine/Operands.lean ====
section
/-! DEFINITION. The operand forms (30_encoding.md R72): sign extension of PID_COMPUTE's two
temperatures is `BitVec.toInt`, every other operand is unsigned; and READ_REG's operand, a register
with its value extended to 64 bits (10_state.md R42). -/

namespace Sys2Proof.Machine

/-- The error, `tgt − cur`, exact (40_pid.md R100). -/
def pidError (cur tgt : BitVec 16) : Int := tgt.toInt - cur.toInt

/-- The derivative, `old − cur`, exact; the sign convention of 40_pid.md R102. -/
def pidDerivative (old cur : BitVec 16) : Int := old.toInt - cur.toInt

/-- Zero extension to 64 bits (10_state.md R42). -/
def zext64 {n : Nat} (v : BitVec n) : DataWord := v.setWidth 64

/-- Sign extension to 64 bits (10_state.md R42). -/
def sext64 {n : Nat} (v : BitVec n) : DataWord := v.signExtend 64

/-- Device `d`'s registers; `none` where the device does not exist. -/
def tcDev (s : State) (d : BitVec 4) : Option TcDev := memRead s.tc s.cfg.numTc d.toNat

/-- The value READ_REG returns for a register, extended to 64 bits (10_state.md R42); `none` for an
index outside its memory (20_memory.md R51). -/
def regValue (s : State) : Reg → Option DataWord
  | .gains => some (zext64 (s.pid.kp ++ s.pid.ki ++ s.pid.kd))
  | .pidInt => some s.pid.int
  | .pidHidx => some (zext64 s.pid.hidx)
  | .pidLastCmd => some (zext64 s.pid.lastCmd)
  | .pidLastRaw => some s.pid.lastRaw
  | .pidFlags => some (zext64 s.pid.flags)
  | .pidDshift => some (BitVec.ofNat 64 s.cfg.pidDshift)
  | .pidHistLen => some (BitVec.ofNat 64 s.cfg.pidHistLen)
  | .seqIdx => some (zext64 s.seq.idx)
  | .seqRem => some (zext64 s.seq.rem)
  | .seqAcc => some (sext64 s.seq.acc)
  | .profileLen => some (BitVec.ofNat 64 s.cfg.profileLen)
  | .tcLast d => (tcDev s d).map fun t => zext64 t.last
  | .tcAidx d => (tcDev s d).map fun t => zext64 t.aidx
  | .tcFault d => (tcDev s d).map fun t => zext64 t.fault
  | .tcFcode d => (tcDev s d).map fun t => zext64 t.fcode
  | .tcAvg d j => (tcDev s d).bind fun t => (memRead t.avg s.cfg.window j.toNat).map zext64
  | .chA => some (zext64 s.pwm.chA)
  | .chB => some (zext64 s.pwm.chB)
  | .pwmPhase => some (zext64 s.pwm.phase)
  | .outs => some (zext64 (s.pwm.outB ++ s.pwm.outA))
  | .pidHist i => (memRead s.pid.hist s.cfg.pidHistLen i.toNat).map sext64
  | .profile k => (memRead s.cfg.profile s.cfg.profileLen k.toNat).map zext64

end Sys2Proof.Machine
end

