-- ==== Sys2Proof/Machine/PidController.lean ====
section
/-! DEFINITION. PID_COMPUTE, PID_SET_GAINS and PID_RESET (40_pid.md R100 to R108). -/

namespace Sys2Proof.Machine

/-- The weighted sum, exact (40_pid.md R100, R106): each gain exponent is a left shift, and the
integral is the one held before the call (40_pid.md R103). Exact also where it would not fit 64
bits, which no reached state gives (log 10). -/
def pidSum (u : Pid) (err der : Int) : Int :=
  shl err u.kp.toNat + shl u.int.toInt u.ki.toNat + shl der u.kd.toNat

/-- The unclamped command (40_pid.md R100). -/
def pidRaw (p : Params) (u : Pid) (err der : Int) : Int := asr (pidSum u err der) p.pidDshift

/-- The power command (40_pid.md R100): the unclamped command clamped to 0..255. -/
def pidOut (raw : Int) : BitVec 8 := BitVec.ofInt 8 (clamp raw 0 255)

/-- `PID_LAST_RAW`: the unclamped command, which fits 64 bits in every reached state (40_pid.md R106);
where it does not fit, a free value (log 10). -/
def pidLastRaw (raw : Int) : BitVec 64 :=
  if -9223372036854775808 ≤ raw ∧ raw ≤ 9223372036854775807 then BitVec.ofInt 64 raw
  else Config.freeLastRaw raw

/-- `PID_INT` after the conditional integration (40_pid.md R100, R101). -/
def pidIntegral (u : Pid) (err : Int) (integ : Bool) : BitVec 64 :=
  if integ = true then BitVec.ofInt 64 (u.int.toInt + err) else u.int

/-- The response of PID_COMPUTE (30_encoding.md R77): the power in bits 7:0, the flags in 10:8. -/
def pidData (flags : BitVec 3) (out : BitVec 8) : DataWord := 0#53 ++ flags ++ out

/-- The PID unit after a PID_COMPUTE, from the unit `u` before it, the unit `v` with the sample
pushed, and the oldest sample (40_pid.md R100, R103). -/
def pidNext (p : Params) (u v : Pid) (old cur tgt : BitVec 16) : Pid :=
  let err := pidError cur tgt
  let raw := pidRaw p u err (pidDerivative old cur)
  let integ := windupAllows raw err
  { v with
    int := pidIntegral u err integ
    lastCmd := pidOut raw
    lastRaw := pidLastRaw raw
    flags := pidFlags raw integ }

/-- PID_COMPUTE cur, tgt (40_pid.md R100). -/
def execPidCompute (cur tgt : BitVec 16) (s : State) : Host.Outcome State Fault Refusal :=
  match histPushPopOldest s.cfg cur s.pid with
  | none => .fault .indexRange
  | some (old, v) =>
    let u := pidNext s.cfg s.pid v old cur tgt
    .next ((s.setPid u).respond .ok (pidData u.flags u.lastCmd) [])

/-- PID_SET_GAINS kp, ki, kd (40_pid.md R107). -/
def execPidSetGains (kp ki kd : BitVec 4) (s : State) : Host.Outcome State Fault Refusal :=
  .next ((s.setPid { s.pid with kp := kp, ki := ki, kd := kd }).respond .ok 0 [])

/-- PID_RESET (40_pid.md R108): power-on values, gains kept. -/
def execPidReset (s : State) : Host.Outcome State Fault Refusal :=
  .next ((s.setPid { Pid.powerOn s.cfg with
    kp := s.pid.kp, ki := s.pid.ki, kd := s.pid.kd }).respond .ok 0 [])

end Sys2Proof.Machine
end

