-- ==== Sys2Proof/Machine/Sequencer.lean ====
section
/-! DEFINITION. SEQ_ADVANCE and SEQ_RESET (41_sequencer.md R121 to R127). -/

namespace Sys2Proof.Machine

/-- `SEQ_REM` after the decrement (41_sequencer.md R121). It is at least 1 in every reached state
(10_state.md R44); decremented from 0 it is a free value (log 11). -/
def seqDecrement (c : Cursor) : BitVec 16 :=
  if c.rem = 0 then Config.freeSeqRem c.idx c.acc else c.rem - 1

/-- The cursor after a call that is not terminal and finds the step `q` (41_sequencer.md R121): the
rate added, the ticks decremented, and at zero the next step, its duration reloaded if there is
one. -/
def cursorTick (p : Params) (c : Cursor) (q : ProfileStep) : Cursor :=
  let acc := BitVec.ofInt 32 (c.acc.toInt + q.rate.toInt)
  let rem := seqDecrement c
  if rem = 0 then
    match profRead p (c.idx.toNat + 1) with
    | some q' => { idx := c.idx + 1, rem := q'.duration, acc := acc }
    | none => { idx := c.idx + 1, rem := 0, acc := acc }
  else { idx := c.idx, rem := rem, acc := acc }

/-- The cursor after a SEQ_ADVANCE (41_sequencer.md R121, R122): unchanged when it is terminal. -/
def cursorNext (p : Params) (c : Cursor) : Cursor :=
  match profRead p c.idx.toNat with
  | some q => cursorTick p c q
  | none => c

/-- The step whose auxiliary output is reported (41_sequencer.md R124), from the cursor after the
call: the current step, or the last once the index has run past the end. -/
def auxStep (p : Params) (c : Cursor) : Option ProfileStep :=
  profRead p (min c.idx.toNat (p.profileLen - 1))

/-- AUX_VALID of a step (41_sequencer.md R121, R124). -/
def auxValid (q : ProfileStep) : Bool := q.aux.isSome

/-- AUX of a step: 0 when it has no aux field (41_sequencer.md R124). -/
def auxValue (q : ProfileStep) : BitVec 8 := q.aux.getD 0

/-- TGT16: the target's low 16 bits (41_sequencer.md R121). -/
def target16 (c : Cursor) : BitVec 16 := BitVec.ofInt 16 (target c)

/-- The response of SEQ_ADVANCE (30_encoding.md R77): TGT_OVF 26, TERMINAL 25, AUX_VALID 24, AUX
23:16, TGT16 15:0; from the cursor after the call, and whether the call was terminal. -/
def seqData (c : Cursor) (term : Bool) (q : ProfileStep) : DataWord :=
  0#37 ++ BitVec.ofBool (targetOverflow c) ++ BitVec.ofBool term ++ BitVec.ofBool (auxValid q) ++
    auxValue q ++ target16 c

/-- SEQ_ADVANCE (41_sequencer.md R121). TERMINAL is judged before the update (41_sequencer.md R122),
the target, the overflow and the aux after it; a target out of range is recorded as TargetRange and
the block goes on (41_sequencer.md R125; log 8). -/
def execSeqAdvance (s : State) : Host.Outcome State Fault Refusal :=
  let c := cursorNext s.cfg s.seq
  match auxStep s.cfg c with
  | none => .fault .indexRange
  | some q =>
    .next (((s.setSeq c).recordTargetRange (targetOverflow c)).respond .ok
      (seqData c (terminal s.cfg s.seq) q) [])

/-- SEQ_RESET (41_sequencer.md R127). -/
def execSeqReset (s : State) : Host.Outcome State Fault Refusal :=
  .next ((s.setSeq (Cursor.powerOn s.cfg)).respond .ok 0 [])

end Sys2Proof.Machine
end

