-- ==== Sys2Proof/Machine/System.lean ====
section
/-! DEFINITION. NOP, READ_REG (44_system.md R180, R181) and power-on reset as an input
(70_reset_and_hazards.md R210). ILLEGAL words are `takeIllegal` of Machine/Ops.lean. -/

namespace Sys2Proof.Machine

/-- NOP (44_system.md R180). -/
def execNop (s : State) : Host.Outcome State Fault Refusal := .next (s.respond .ok 0 [])

/-- READ_REG n, the register already named (44_system.md R181). -/
def execReadReg (r : Reg) (s : State) : Host.Outcome State Fault Refusal :=
  match regValue s r with
  | some v => .next (s.respond .ok v [])
  | none => .fault .indexRange

/-- Power-on reset (70_reset_and_hazards.md R210): every piece of the block's state at its value of
10_state.md R43. The configuration, the outside world and the recorded model fault stay, since they
are no state of the block (logs 8 and 12). -/
def powerOnReset (s : State) : State :=
  { State.powerOn s.cfg with
    targetRange := s.targetRange, inputs := s.inputs, sensors := s.sensors, draws := s.draws }

end Sys2Proof.Machine
end

