-- ==== Sys2Proof/Machine/Thermocouple.lean ====
section
/-! DEFINITION. TC_READ (42_thermocouple.md R140 to R148). -/

namespace Sys2Proof.Machine

/-- The device after a read that found no fault, the reading pushed (42_thermocouple.md R142, R145). -/
def tcAccept (p : Params) (raw : RawWord) (t : TcDev) : TcDev :=
  { avgPush p (reading p raw) t with last := reading p raw, fault := 0, fcode := 0 }

/-- The device after a read that found the fault `k`: only the flag and the code change
(42_thermocouple.md R142, corner cases). -/
def tcReject (k : FaultKind) (t : TcDev) : TcDev := { t with fault := 1, fcode := faultCode k }

/-- The device after a read (42_thermocouple.md R142). -/
def tcNext (p : Params) (raw : RawWord) (t : TcDev) : TcDev :=
  if classify p raw = .noFault then tcAccept p raw t else tcReject (classify p raw) t

/-- VALUE of the response (42_thermocouple.md R146): the mean after the push, or the sentinel. -/
def tcValue (p : Params) (raw : RawWord) (t : TcDev) : BitVec 16 :=
  if classify p raw = .noFault then avgMean p (tcAccept p raw t)
  else sentinel p (classify p raw)

/-- The response of TC_READ (30_encoding.md R77): RAW 47:32, FCODE 19:16, VALUE 15:0. -/
def tcData (raw : RawWord) (code : BitVec 4) (value : BitVec 16) : DataWord :=
  0#16 ++ raw ++ 0#12 ++ code ++ value

/-- The status of a read (42_thermocouple.md R142). -/
def tcStatus (p : Params) (raw : RawWord) : Status :=
  if classify p raw = .noFault then .ok else .sensorFault

/-- The events of a read: one TFAULT for a faulted one, none otherwise (42_thermocouple.md R147). -/
def tcEvents (p : Params) (d : BitVec 4) (raw : RawWord) : List Event :=
  if classify p raw = .noFault then [] else [.tfault d (faultCode (classify p raw)) raw]

/-- The state after a TC_READ of device `d` that holds `t` (42_thermocouple.md R142). -/
def tcReadNext (d : BitVec 4) (t : TcDev) (s : State) : State :=
  let raw := sensorWord d s
  (s.afterDraw.setTc d (tcNext s.cfg raw t)).respond (tcStatus s.cfg raw)
    (tcData raw (faultCode (classify s.cfg raw)) (tcValue s.cfg raw t)) (tcEvents s.cfg d raw)

/-- TC_READ d (42_thermocouple.md R142). Only a read without a fault forms an index of the window, so
only it can be an IndexRange (20_memory.md R51). -/
def execTcRead (d : BitVec 4) (s : State) : Host.Outcome State Fault Refusal :=
  match tcDev s d with
  | none => .fault .indexRange
  | some t =>
    if ¬ t.WindowOk s.cfg ∧ classify s.cfg (sensorWord d s) = .noFault then .fault .indexRange
    else .next (tcReadNext d t s)

end Sys2Proof.Machine
end

