-- ==== Sys2Proof/Machine/Dispatch.lean ====
section
/-! DEFINITION. The meaning of each command (30_encoding.md R74), one arm per constructor. -/

namespace Sys2Proof.Machine

def exec (i : Instr) (s : State) : Host.Outcome State Fault Refusal :=
  match i with
  | .nop => Sys2Proof.Machine.execNop s
  | .pidCompute cur tgt => Sys2Proof.Machine.execPidCompute cur tgt s
  | .pidSetGains kp ki kd => Sys2Proof.Machine.execPidSetGains kp ki kd s
  | .pidReset => Sys2Proof.Machine.execPidReset s
  | .seqAdvance => Sys2Proof.Machine.execSeqAdvance s
  | .seqReset => Sys2Proof.Machine.execSeqReset s
  | .tcRead d => Sys2Proof.Machine.execTcRead d s
  | .mix c => Sys2Proof.Machine.execMix c s
  | .mixManual a b => Sys2Proof.Machine.execMixManual a b s
  | .readReg r => Sys2Proof.Machine.execReadReg r s

end Sys2Proof.Machine
end

