-- ==== Sys2Proof/Machine/Command.lean ====
section
/-! DEFINITION. Performing one command word (30_encoding.md R70, R75; 44_system.md R182), and the
pseudo-instructions of 30_encoding.md R82 as the command words they expand into. -/

namespace Sys2Proof.Machine

/-- Take one command word: perform the command it decodes to, or do what an ILLEGAL word does.
Decoding comes first, so an ILLEGAL word is never performed (60_exceptions.md R194). -/
def takeCommand (w : CmdWord) (s : State) : Host.Outcome State Fault Refusal :=
  match decode s.cfg w with
  | .instr i => exec i s
  | .illegal _ => .next (takeIllegal w s)

/-- The commands of a pseudo-instruction (30_encoding.md R82). `power` is the power in the response
of CONTROL's own PID_COMPUTE, which the host takes from that response; the others do not use it.
SAMPLE is the expansion the spec gives, for two devices (log 20). -/
def pseudoInstrs (power : BitVec 8) : Pseudo → List Instr
  | .gains kp ki kd => [.pidSetGains kp ki kd]
  | .heatersOff => [.mixManual 0 0]
  | .manual a b => [.mixManual a b]
  | .sample => [.tcRead 0, .tcRead 1]
  | .control cur tgt => [.pidCompute cur tgt, .mix power]
  | .restart => [.seqReset]

/-- Take a list of command words, one after the other (20_memory.md R60). -/
def takeCommands : List CmdWord → State → Host.Outcome State Fault Refusal
  | [], s => .next s
  | w :: ws, s =>
    match takeCommand w s with
    | .next t => takeCommands ws t
    | .fault r => .fault r
    | .refused r => .refused r

/-- The power of a PID_COMPUTE response, `RSP_DATA[7:0]` (30_encoding.md R77). -/
def responsePower (s : State) : BitVec 8 := s.rspData.extractLsb' 0 8

/-- Run a pseudo-instruction (30_encoding.md R82): its command words in order, CONTROL's MIX with the
power of its PID_COMPUTE's response. -/
def runPseudo (q : Pseudo) (s : State) : Host.Outcome State Fault Refusal :=
  match q with
  | .control cur tgt =>
    match takeCommand (encode (.pidCompute cur tgt)) s with
    | .next t => takeCommand (encode (.mix (responsePower t))) t
    | .fault r => .fault r
    | .refused r => .refused r
  | q => takeCommands ((pseudoInstrs 0 q).map encode) s

end Sys2Proof.Machine
end

