-- ==== Sys2Proof/Machine/Step.lean ====
section
/-! DEFINITION. One step of the machine (00_scope.md R3, R16): one whole command, one PWM_TICK, or one
power-on reset, as the schedule says. -/

namespace Sys2Proof.Machine

/-- One step: take the oldest entry of the schedule (20_memory.md R60, R61; log 3). A configuration
that is not legal has no run (60_exceptions.md R196; log 15). With nothing scheduled the block waits
and nothing changes (log 4). -/
def step (s : State) : Host.Outcome State Fault Refusal :=
  if s.cfg.Legal then
    match s.inputs with
    | [] => .next s
    | .command w :: rest => takeCommand w { s with inputs := rest }
    | .pwmTick :: rest => .next (pwmTick { s with inputs := rest })
    | .powerOnReset :: rest => .next (powerOnReset { s with inputs := rest })
  else .refused .illegalConfig

/-- The host presents the word `w` next: it becomes the oldest entry of the schedule (log 3). -/
def State.withFetchWord (s : State) (nbits w : Nat) : State :=
  { s with inputs := .command (BitVec.ofNat 64 (w % 2 ^ nbits)) :: s.inputs }

end Sys2Proof.Machine
end

