-- ==== Sys2Proof/Safety.lean ====
section
/-! DEFINITION. What counts as a safe state: the invariant of 10_state.md R44 with the shape of the
internal memories, and the premise "no model fault recorded" of 60_exceptions.md R196; and the runs
that claims speak about. -/

namespace Sys2Proof.Machine

/-- The internal memories have the lengths of 20_memory.md R51 (the canonical form of this machine's
memory: there is no host-addressable one, log 21). -/
abbrev State.Shape (s : State) : Prop :=
  s.pid.hist.length = s.cfg.pidHistLen ∧ s.tc.length = s.cfg.numTc ∧
  ∀ t ∈ s.tc, t.avg.length = s.cfg.window

/-- 10_state.md R44 item 1: the indices lie in their memories and the phase in its period. -/
abbrev State.IndicesOk (s : State) : Prop :=
  s.pid.hidx.toNat < s.cfg.pidHistLen ∧ (∀ t ∈ s.tc, t.aidx.toNat < s.cfg.window) ∧
  s.pwm.phase.toNat ≤ 254

/-- 10_state.md R44 item 2, for one cursor. -/
def cursorOk (p : Params) (c : Cursor) : Bool :=
  match profRead p c.idx.toNat with
  | some q => decide (1 ≤ c.rem.toNat ∧ c.rem.toNat ≤ q.duration.toNat)
  | none => decide (c.idx.toNat = p.profileLen ∧ c.rem.toNat = 0)

/-- `v` lies in the plausible band (42_thermocouple.md R144). -/
abbrev InBand (p : Params) (v : BitVec 16) : Prop := p.tcMin ≤ v.toNat ∧ v.toNat ≤ p.tcMax

/-- 10_state.md R44 item 3, for one device. -/
abbrev TcDev.BandOk (p : Params) (t : TcDev) : Prop := InBand p t.last ∧ ∀ v ∈ t.avg, InBand p v

/-- The bound of 40_pid.md R105, 2^33 + 2^23 + 2^17. -/
def integralBound : Int := 8598454272

/-- 10_state.md R44 item 4, with the bound of 40_pid.md R105. -/
abbrev Pid.IntegralOk (u : Pid) : Prop := -integralBound ≤ u.int.toInt ∧ u.int.toInt ≤ integralBound

/-- What a device reports is consistent: the flag says whether the code is 0 (10_state.md R34, R35),
and codes 5 to 15 are never produced (60_exceptions.md R191). -/
abbrev TcDev.ReportOk (t : TcDev) : Prop :=
  t.fcode.toNat ≤ 4 ∧ t.fault = BitVec.ofBool (decide (t.fcode ≠ 0))

/-- At most one of SAT_HI and SAT_LO is 1 (40_pid.md R100). -/
abbrev Pid.FlagsOk (u : Pid) : Prop := ¬ (u.flags.getLsbD 1 = true ∧ u.flags.getLsbD 2 = true)

/-- The invariant: a legal configuration, the shape of 20_memory.md R51, the four items of
10_state.md R44, every window entry a reading of 0..8191 (10_state.md R32), and reports the rules can
produce (30_encoding.md R76; 60_exceptions.md R191). -/
structure State.Inv (s : State) : Prop where
  legal : s.cfg.Legal
  shape : s.Shape
  indices : s.IndicesOk
  cursor : cursorOk s.cfg s.seq = true
  band : InBand s.cfg s.cfg.roomTc → ∀ t ∈ s.tc, t.BandOk s.cfg
  readings : ∀ t ∈ s.tc, ∀ v ∈ t.avg, v.toNat ≤ 8191
  integral : s.pid.IntegralOk
  flags : s.pid.FlagsOk
  reports : ∀ t ∈ s.tc, t.ReportOk
  status : s.rspStatus.toNat ≤ 2

/-- No model fault has been recorded: the premise of every claim about a run that may hold a
SEQ_ADVANCE out of range (60_exceptions.md R196). -/
abbrev State.Unfaulted (s : State) : Prop := s.targetRange = false

/-- The command the next step performs, if the next step performs one. -/
def State.nextInstr (s : State) : Option Instr :=
  match s.inputs with
  | .command w :: _ => (decode s.cfg w).instr?
  | _ => none

/-- The next step is a power-on reset. -/
def State.resetsNext (s : State) : Bool :=
  match s.inputs with
  | .powerOnReset :: _ => true
  | _ => false

/-- Commands performed one after the other (20_memory.md R60), stopping where one stops. -/
def runInstrs : List Instr → State → Host.Outcome State Fault Refusal
  | [], s => .next s
  | i :: is, s =>
    match exec i s with
    | .next t => runInstrs is t
    | .fault r => .fault r
    | .refused r => .refused r

/-- The next step takes a PWM_TICK. -/
def State.ticksNext (s : State) : Bool :=
  match s.inputs with
  | .pwmTick :: _ => true
  | _ => false

/-- The next `n` steps, each as the state before it and the state after it, up to the first that
stops. -/
def stepsTaken : Nat → State → List (State × State)
  | 0, _ => []
  | n + 1, s =>
    match step s with
    | .next t => (s, t) :: stepsTaken n t
    | _ => []

/-- Those of the next `n` steps that take a PWM_TICK; other steps may fall between them
(20_memory.md R61). -/
def ticksTaken (n : Nat) (s : State) : List (State × State) :=
  (stepsTaken n s).filter fun p => p.1.ticksNext

/-- The rate of each tick of the whole profile, in order (41_sequencer.md R129); its length is
D = Σ_k `PROFILE[k].duration`. -/
def tickRates (p : Params) : List Int :=
  p.profile.flatMap fun w => List.replicate (romDur w).toNat (romRate w).toInt

end Sys2Proof.Machine
end

