-- ==== Sys2Proof/Certificates/Slice0/Obligations.lean ====
section
/-! DEFINITION. The statements. Each docstring names the rule of spec/ it formalises, or says that it
rests on a choice of the model and names the log entry. -/

open Sys2Proof Sys2Proof.Machine

/-! ### Reset and the invariant -/

/-- 10_state.md R43: every piece of state holds its value after power-on reset, for every legal
configuration. (The reset input is the entry `powerOnReset` of the schedule, log 12; what it leaves of
the model's own fields is PowerOnResetKeepsOutsideWorld.) -/
def Obligations.PowerOnResetValues : Prop :=
  ∀ (s : State) (rest : List Input), s.cfg.Legal → s.inputs = .powerOnReset :: rest →
    ∃ t, step s = .next t ∧
      t.pid.kp = 0 ∧ t.pid.ki = 0 ∧ t.pid.kd = 0 ∧ t.pid.int = 0 ∧
      t.pid.hist.length = s.cfg.pidHistLen ∧
      (∀ i, i < s.cfg.pidHistLen → t.pid.hist[i]? = some s.cfg.pidRoom) ∧
      t.pid.hidx = 0 ∧ t.pid.lastCmd = 0 ∧ t.pid.lastRaw = 0 ∧ t.pid.flags = 0 ∧
      t.seq.idx = 0 ∧ (∃ w, s.cfg.profile[0]? = some w ∧ t.seq.rem = romDur w) ∧
      t.seq.acc = s.cfg.seqBase ∧ t.tc.length = s.cfg.numTc ∧
      (∀ d, d < s.cfg.numTc → ∃ c, t.tc[d]? = some c ∧ c.avg.length = s.cfg.window ∧
        (∀ j, j < s.cfg.window → c.avg[j]? = some s.cfg.roomTc) ∧
        c.aidx = 0 ∧ c.last = s.cfg.roomTc ∧ c.fault = 0 ∧ c.fcode = 0) ∧
      t.pwm.chA = 0 ∧ t.pwm.chB = 0 ∧ t.pwm.phase = 0 ∧ t.pwm.outA = 0 ∧ t.pwm.outB = 0 ∧
      t.rspStatus = 0 ∧ t.rspData = 0

/-- The invariant holds right after reset (10_state.md R44, under the default parameters and the table
T8: the model's choice, log 2). -/
def Obligations.ResetMeetsInvariant : Prop := State.reset.Inv

/-- The invariant holds after power-on reset under every legal configuration, whatever the schedule
and the sensors (10_state.md section 11). -/
def Obligations.PowerOnMeetsInvariant : Prop :=
  ∀ (p : Params) (inputs : List Input) (sensors : List SensorAnswer), p.Legal →
    ({ State.powerOn p with inputs := inputs, sensors := sensors } : State).Inv

/-- Every step keeps the invariant, from every state that meets it (10_state.md section 11). -/
def Obligations.StepKeepsInvariant : Prop :=
  ∀ s t : State, s.Inv → step s = .next t → t.Inv

/-- From every state that meets the invariant the step answers a next state: no index leaves its
memory and nothing stops the block (20_memory.md section 1; 60_exceptions.md section 2). -/
def Obligations.StepNeverStopsUnderInvariant : Prop :=
  ∀ s : State, s.Inv → ∃ t, step s = .next t

/-- 10_state.md R44: under every legal configuration, every run from power-on reset, whatever commands,
ticks and resets it takes and whatever the sensors answer, goes on and meets R44's four items. -/
def Obligations.ReachableStatesMeetR44 : Prop :=
  ∀ (p : Params) (inputs : List Input) (sensors : List SensorAnswer) (n : Nat), p.Legal →
    ∃ t, core.run n ({ State.powerOn p with inputs := inputs, sensors := sensors } : State) = .next t ∧
      (t.pid.hidx.toNat < p.pidHistLen ∧ (∀ c ∈ t.tc, c.aidx.toNat < 2 ^ p.avgLog2) ∧
        t.pwm.phase.toNat ≤ 254) ∧
      (t.seq.idx.toNat ≤ p.profile.length ∧
        (t.seq.idx.toNat < p.profile.length → ∃ w, p.profile[t.seq.idx.toNat]? = some w ∧
          1 ≤ t.seq.rem.toNat ∧ t.seq.rem.toNat ≤ (romDur w).toNat) ∧
        (t.seq.idx.toNat = p.profile.length → t.seq.rem = 0)) ∧
      (InBand p p.roomTc → ∀ c ∈ t.tc, InBand p c.last ∧ ∀ v ∈ c.avg, InBand p v) ∧
      (-(2 ^ 34) < t.pid.int.toInt ∧ t.pid.int.toInt < 2 ^ 34)

/-! ### Encoding -/

/-- Decoding the word of a command that exists gives the command back, with every operand
(30_encoding.md sections 2 and 3). -/
def Obligations.EncodeThenDecode : Prop :=
  ∀ (p : Params) (i : Instr), p.Legal → i.wf p = true → decode p (encode i) = .instr i

/-- A word that decodes to a command is that command's word, and the command exists: no bit of a word
is dropped, and no two words are one command (30_encoding.md sections 2, 3 and 6). -/
def Obligations.DecodeThenEncode : Prop :=
  ∀ (p : Params) (w : CmdWord) (i : Instr), p.Legal → decode p w = .instr i →
    encode i = w ∧ i.wf p = true

/-- 30_encoding.md R73: exactly which words are ILLEGAL. `A`, `B`, `DEV`, `RSV` and `OP` are the bits
of 30_encoding.md R71, the fields marked 0 are those of R72, and a number is assigned when an existing
register of 10_state.md R42 has it; and an ILLEGAL word performs 44_system.md R182 and nothing else. -/
def Obligations.IllegalWordsExactly : Prop :=
  ∀ (p : Params) (w : CmdWord), p.Legal →
    ((∃ why, decode p w = .illegal why) ↔
      (w.extractLsb' 56 8 ∉ ([0x00, 0x01, 0x02, 0x03, 0x10, 0x11, 0x20, 0x30, 0x31, 0x40] :
          List (BitVec 8)) ∨
        w.extractLsb' 32 20 ≠ 0#20 ∨
        (w.extractLsb' 56 8 ≠ 0x20#8 ∧ w.extractLsb' 52 4 ≠ 0#4) ∨
        (w.extractLsb' 56 8 ≠ 0x01#8 ∧ w.extractLsb' 56 8 ≠ 0x40#8 ∧ w.extractLsb' 16 16 ≠ 0#16) ∨
        (w.extractLsb' 56 8 = 0x02#8 ∧ w.extractLsb' 12 4 ≠ 0#4) ∨
        (w.extractLsb' 56 8 = 0x30#8 ∧ w.extractLsb' 8 8 ≠ 0#8) ∨
        (w.extractLsb' 56 8 ∈ ([0x00, 0x03, 0x10, 0x11, 0x20, 0x40] : List (BitVec 8)) ∧
          w.extractLsb' 0 16 ≠ 0#16) ∨
        (w.extractLsb' 56 8 = 0x20#8 ∧ p.numTc ≤ (w.extractLsb' 52 4).toNat) ∨
        (w.extractLsb' 56 8 = 0x40#8 ∧
          ¬ ∃ r : Reg, r.wf p = true ∧ r.num = w.extractLsb' 16 16))) ∧
    ∀ s : State, s.cfg = p → (∃ why, decode p w = .illegal why) →
      takeCommand w s = .next { s with
        rspStatus := 1, rspData := w, events := [.gfault (w.extractLsb' 56 8)] }

/-- Words written out from the spec's encodings decode to the commands they stand for
(95_test_vectors.md, worked examples). -/
def Obligations.SpecWordsDecode : Prop :=
  decode Params.default 0x0000000000000000#64 = .instr .nop ∧
  decode Params.default 0x0100000080007FFF#64 = .instr (.pidCompute 0x8000#16 0x7FFF#16) ∧
  decode Params.default 0x0200000000000302#64 = .instr (.pidSetGains 3 0 2) ∧
  decode Params.default 0x1000000000000000#64 = .instr .seqAdvance ∧
  decode Params.default 0x2010000000000000#64 = .instr (.tcRead 1) ∧
  decode Params.default 0x310000000000C80A#64 = .instr (.mixManual 200 10) ∧
  decode Params.default 0x4000000000120000#64 = .instr (.readReg .seqAcc) ∧
  (decode Params.default 0x0200000000001302#64).instr? = none ∧
  (decode Params.default 0x2020000000000000#64).instr? = none

/-- 30_encoding.md R81: the assembler's word of a line decodes to the command with exactly those
operands, and every existing command is the word of its own line; so an operand out of its range is
refused and none is truncated. -/
def Obligations.AssemblerNeverTruncates : Prop :=
  ∀ p : Params, p.Legal →
    (∀ (m : String) (ops : List Int) (w : CmdWord), assemble p m ops = some w →
      ∃ i, decode p w = .instr i ∧ i.mnemonic = m ∧ i.operands = ops) ∧
    (∀ i : Instr, i.wf p = true → assemble p i.mnemonic i.operands = some (encode i))

/-! ### The step -/

/-- When the oldest entry of the schedule is a command word that decodes to `i`, the step is exec of
`i` on the state with that entry taken, and nothing else. -/
def Obligations.StepRunsDecodedInstruction : Prop :=
  ∀ (s : State) (w : CmdWord) (rest : List Input) (i : Instr), s.cfg.Legal →
    s.inputs = .command w :: rest → decode s.cfg w = .instr i →
    step s = exec i { s with inputs := rest }

/-- 44_system.md R182: an ILLEGAL word changes nothing but the response, which carries the word, and
raises one GFAULT with its OP byte. -/
def Obligations.StepOnIllegalWord : Prop :=
  ∀ (s : State) (w : CmdWord) (rest : List Input) (why : IllegalWord), s.cfg.Legal →
    s.inputs = .command w :: rest → decode s.cfg w = .illegal why →
    step s = .next { s with
      inputs := rest, rspStatus := 1, rspData := w, events := [.gfault (w.extractLsb' 56 8)] }

/-- 43_mixer_pwm.md R166: one PWM_TICK, and what it leaves unchanged. -/
def Obligations.StepTakesPwmTick : Prop :=
  ∀ (s : State) (rest : List Input), s.cfg.Legal → s.inputs = .pwmTick :: rest →
    ∃ t, step s = .next t ∧
      (t.pwm.outA = 1 ↔ s.pwm.phase.toNat < s.pwm.chA.toNat) ∧
      (t.pwm.outB = 1 ↔ s.pwm.phase.toNat < s.pwm.chB.toNat) ∧
      t.pwm.phase.toNat = (s.pwm.phase.toNat + 1) % 255 ∧
      t.pwm.chA = s.pwm.chA ∧ t.pwm.chB = s.pwm.chB ∧
      t = { s with inputs := rest, pwm := t.pwm, events := [] }

/-- The step refuses exactly the configurations that are not legal (00_scope.md section 3;
41_sequencer.md R120; the place of the check is the model's choice, log 15). -/
def Obligations.StepRefusesIllegalConfiguration : Prop :=
  ∀ s : State, (∃ r, step s = .refused r) ↔ ¬ s.cfg.Legal

/-- With nothing scheduled the step changes nothing (the model's choice, log 4). -/
def Obligations.IdleStepChangesNothing : Prop :=
  ∀ s : State, s.cfg.Legal → s.inputs = [] → step s = .next s

/-! ### Whole-machine rules -/

/-- 10_state.md R45, the write map: what each command, an ILLEGAL word and a PWM_TICK leave unchanged
(power-on reset writes everything). The configuration, the schedule and, for every command but
TC_READ, the sensors' answers are unchanged as well; only SEQ_ADVANCE may record TargetRange. -/
def Obligations.WriteMap : Prop :=
  (∀ (w : CmdWord) (s : State), ∃ d e,
    takeIllegal w s = { s with rspStatus := 1, rspData := d, events := e }) ∧
  (∀ s : State, ∃ o e, pwmTick s = { s with pwm := o, events := e } ∧
    o.chA = s.pwm.chA ∧ o.chB = s.pwm.chB) ∧
  ∀ (i : Instr) (s t : State), exec i s = .next t →
    t.cfg = s.cfg ∧ t.inputs = s.inputs ∧
    (match i with
      | .nop => t = s.respond .ok 0 []
      | .pidCompute _ _ =>
        t.pid.kp = s.pid.kp ∧ t.pid.ki = s.pid.ki ∧ t.pid.kd = s.pid.kd ∧
        (∀ j, j ≠ s.pid.hidx.toNat → t.pid.hist[j]? = s.pid.hist[j]?) ∧
        t.seq = s.seq ∧ t.tc = s.tc ∧ t.pwm = s.pwm ∧ t.targetRange = s.targetRange ∧
        t.sensors = s.sensors ∧ t.draws = s.draws
      | .pidSetGains _ _ _ =>
        { t.pid with kp := 0, ki := 0, kd := 0 } = { s.pid with kp := 0, ki := 0, kd := 0 } ∧
        t.seq = s.seq ∧ t.tc = s.tc ∧ t.pwm = s.pwm ∧ t.targetRange = s.targetRange ∧
        t.sensors = s.sensors ∧ t.draws = s.draws
      | .pidReset =>
        t.pid.kp = s.pid.kp ∧ t.pid.ki = s.pid.ki ∧ t.pid.kd = s.pid.kd ∧
        t.seq = s.seq ∧ t.tc = s.tc ∧ t.pwm = s.pwm ∧ t.targetRange = s.targetRange ∧
        t.sensors = s.sensors ∧ t.draws = s.draws
      | .seqAdvance =>
        (s.cfg.profile.length ≤ s.seq.idx.toNat → t.seq = s.seq) ∧
        t.pid = s.pid ∧ t.tc = s.tc ∧ t.pwm = s.pwm ∧ t.sensors = s.sensors ∧ t.draws = s.draws
      | .seqReset =>
        t.pid = s.pid ∧ t.tc = s.tc ∧ t.pwm = s.pwm ∧ t.targetRange = s.targetRange ∧
        t.sensors = s.sensors ∧ t.draws = s.draws
      | .tcRead d =>
        (∀ e, e ≠ d.toNat → t.tc[e]? = s.tc[e]?) ∧
        (∃ c c', s.tc[d.toNat]? = some c ∧ t.tc[d.toNat]? = some c' ∧
          ∀ j, j ≠ c.aidx.toNat → c'.avg[j]? = c.avg[j]?) ∧
        (t.rspStatus ≠ 0 → ∃ c k, s.tc[d.toNat]? = some c ∧
          t.tc[d.toNat]? = some { c with fault := 1, fcode := k }) ∧
        t.pid = s.pid ∧ t.seq = s.seq ∧ t.pwm = s.pwm ∧ t.targetRange = s.targetRange
      | .mix _ =>
        { t.pwm with chA := 0, chB := 0 } = { s.pwm with chA := 0, chB := 0 } ∧
        t.pid = s.pid ∧ t.seq = s.seq ∧ t.tc = s.tc ∧ t.targetRange = s.targetRange ∧
        t.sensors = s.sensors ∧ t.draws = s.draws
      | .mixManual _ _ =>
        { t.pwm with chA := 0, chB := 0 } = { s.pwm with chA := 0, chB := 0 } ∧
        t.pid = s.pid ∧ t.seq = s.seq ∧ t.tc = s.tc ∧ t.targetRange = s.targetRange ∧
        t.sensors = s.sensors ∧ t.draws = s.draws
      | .readReg _ => ∃ v, t = s.respond .ok v [])

/-- 20_memory.md R63: no step changes the profile table, or any other parameter. -/
def Obligations.ProfileTableIsImmutable : Prop :=
  ∀ s t : State, step s = .next t → t.cfg = s.cfg

/-- 10_state.md R22: the gains change only by PID_SET_GAINS, all three in one step, with every value
legal, and by power-on reset, which makes them 0. -/
def Obligations.GainsChangeOnlyBySetGains : Prop :=
  ∀ s t : State, step s = .next t →
    (s.resetsNext = true → t.pid.kp = 0 ∧ t.pid.ki = 0 ∧ t.pid.kd = 0) ∧
    (s.resetsNext = false → (t.pid.kp, t.pid.ki, t.pid.kd) ≠ (s.pid.kp, s.pid.ki, s.pid.kd) →
      s.nextInstr = some (.pidSetGains t.pid.kp t.pid.ki t.pid.kd)) ∧
    (∀ kp ki kd, s.nextInstr = some (.pidSetGains kp ki kd) →
      t.pid.kp = kp ∧ t.pid.ki = ki ∧ t.pid.kd = kd)

/-- 41_sequencer.md R128: a step that is no SEQ_ADVANCE, no SEQ_RESET and no power-on reset leaves the
cursor exactly as it was, so a later SEQ_ADVANCE gives the cursor and the response it would have given
without that step. -/
def Obligations.CursorFrozenWhilePaused : Prop :=
  ∀ s t : State, step s = .next t → s.resetsNext = false →
    s.nextInstr ≠ some .seqAdvance → s.nextInstr ≠ some .seqReset →
    t.seq = s.seq ∧
    ∀ a, exec .seqAdvance s = .next a → ∃ b, exec .seqAdvance t = .next b ∧
      b.seq = a.seq ∧ b.rspStatus = a.rspStatus ∧ b.rspData = a.rspData

/-- The duties change only by MIX and MIX_MANUAL (or power-on reset), and while both duties and both
outputs are 0 every other step, PWM_TICK among them, keeps them 0 (10_state.md R36;
70_reset_and_hazards.md R211). -/
def Obligations.HeatersStayOffUntilMix : Prop :=
  ∀ s t : State, step s = .next t → s.resetsNext = false →
    (∀ c, s.nextInstr ≠ some (.mix c)) → (∀ a b, s.nextInstr ≠ some (.mixManual a b)) →
    (t.pwm.chA = s.pwm.chA ∧ t.pwm.chB = s.pwm.chB) ∧
    (s.pwm.chA = 0 → s.pwm.outA = 0 → t.pwm.outA = 0) ∧
    (s.pwm.chB = 0 → s.pwm.outB = 0 → t.pwm.outB = 0)

/-- The recorded TargetRange is never cleared, and it is newly recorded exactly by a SEQ_ADVANCE whose
response has TGT_OVF (bit 26) set (60_exceptions.md R196; that it is recorded and the run goes on is
the model's reading, log 8). -/
def Obligations.TargetRangeRecordedAndNeverCleared : Prop :=
  ∀ s t : State, step s = .next t →
    (s.targetRange = true → t.targetRange = true) ∧
    (s.targetRange = false →
      (t.targetRange = true ↔
        s.nextInstr = some .seqAdvance ∧ t.rspData.getLsbD 26 = true))

/-- 60_exceptions.md R192: GFAULT is emitted exactly by a step on an ILLEGAL word, once, with the
word's OP byte. -/
def Obligations.GenericFaultExactlyOnIllegalWord : Prop :=
  ∀ (s t : State) (x : Input) (rest : List Input), step s = .next t → s.inputs = x :: rest →
    ∀ op : BitVec 8, (.gfault op ∈ t.events ↔
      ∃ w why, x = .command w ∧ decode s.cfg w = .illegal why ∧ op = w.extractLsb' 56 8) ∧
      (.gfault op ∈ t.events → t.events = [.gfault op])

/-- 42_thermocouple.md R147: a TC_READ emits exactly one TFAULT when it reports a fault code, and none
when it reports code 0; no other step emits one. -/
def Obligations.SensorFaultEventExactlyOnFaultedRead : Prop :=
  ∀ (s t : State) (x : Input) (rest : List Input), step s = .next t → s.inputs = x :: rest →
    (∀ d, s.nextInstr = some (.tcRead d) →
      t.events = (if t.rspData.extractLsb' 16 4 = 0#4 then []
        else [.tfault d (t.rspData.extractLsb' 16 4) (t.rspData.extractLsb' 32 16)])) ∧
    ((∀ d, s.nextInstr ≠ some (.tcRead d)) → ∀ d c r, .tfault d c r ∉ t.events)

/-- Where a command stops: exactly where its rule forms an index outside a memory, and then with
IndexRange (20_memory.md R51; 60_exceptions.md R196; that the machine stops there is the model's
reading, log 9). The clauses on a device or a register that does not exist, which no word decodes to,
are the model's reading too, log 14. -/
def Obligations.StopsExactlyOnIndexOutOfRange : Prop :=
  ∀ (s : State) (f : Fault),
    (∀ cur tgt, exec (.pidCompute cur tgt) s = .fault f ↔
      ¬ (s.pid.hidx.toNat < s.cfg.pidHistLen ∧ s.pid.hidx.toNat < s.pid.hist.length)) ∧
    (exec .seqAdvance s = .fault f ↔ s.cfg.profile = []) ∧
    (∀ d, exec (.tcRead d) s = .fault f ↔
      ¬ (d.toNat < s.cfg.numTc ∧ d.toNat < s.tc.length) ∨
      ∃ c, s.tc[d.toNat]? = some c ∧
        ¬ (c.avg.length = s.cfg.window ∧ c.aidx.toNat < s.cfg.window) ∧
        classify s.cfg (sensorWord d s) = .noFault) ∧
    (∀ r, exec (.readReg r) s = .fault f ↔ ¬ (match r with
      | .tcLast d | .tcAidx d | .tcFault d | .tcFcode d =>
        d.toNat < s.cfg.numTc ∧ d.toNat < s.tc.length
      | .tcAvg d j => d.toNat < s.cfg.numTc ∧
        ∃ c, s.tc[d.toNat]? = some c ∧ j.toNat < s.cfg.window ∧ j.toNat < c.avg.length
      | .pidHist i => i.toNat < s.cfg.pidHistLen ∧ i.toNat < s.pid.hist.length
      | .profile k => k.toNat < s.cfg.profile.length
      | _ => True)) ∧
    (∀ i, (∃ a, exec i s = .refused a) → False)

/-- 00_scope.md R2: no unit reads another unit's state. Two states with the same configuration that
agree on a unit get from that unit's commands the same outcome for the unit and the same response, and
the reader needs the same sensor answers besides. -/
def Obligations.UnitsAreIndependent : Prop :=
  ∀ s u : State, s.cfg = u.cfg →
    (s.pid = u.pid → ∀ i, (∃ a b, i = .pidCompute a b) ∨ (∃ a b c, i = .pidSetGains a b c) ∨
        i = .pidReset →
      ∀ t, exec i s = .next t →
        ∃ v, exec i u = .next v ∧ v.pid = t.pid ∧ v.rspStatus = t.rspStatus ∧ v.rspData = t.rspData ∧
          v.seq = u.seq ∧ v.tc = u.tc ∧ v.pwm = u.pwm) ∧
    (s.seq = u.seq → ∀ i, i = .seqAdvance ∨ i = .seqReset →
      ∀ t, exec i s = .next t →
        ∃ v, exec i u = .next v ∧ v.seq = t.seq ∧ v.rspStatus = t.rspStatus ∧ v.rspData = t.rspData ∧
          v.pid = u.pid ∧ v.tc = u.tc ∧ v.pwm = u.pwm) ∧
    (s.tc = u.tc → s.sensors = u.sensors → s.draws = u.draws → ∀ d t, exec (.tcRead d) s = .next t →
        ∃ v, exec (.tcRead d) u = .next v ∧ v.tc = t.tc ∧ v.rspStatus = t.rspStatus ∧
          v.rspData = t.rspData ∧ v.pid = u.pid ∧ v.seq = u.seq ∧ v.pwm = u.pwm) ∧
    (s.pwm = u.pwm → (pwmTick s).pwm = (pwmTick u).pwm ∧
      ∀ i, (∃ c, i = .mix c) ∨ (∃ a b, i = .mixManual a b) →
      ∀ t, exec i s = .next t →
        ∃ v, exec i u = .next v ∧ v.pwm = t.pwm ∧ v.rspStatus = t.rspStatus ∧ v.rspData = t.rspData ∧
          v.pid = u.pid ∧ v.seq = u.seq ∧ v.tc = u.tc)

/-- A PWM_TICK and a command that neither writes the duties nor reads back `PWM_PHASE` or OUTS may be
taken in either order: the state is the same but for the event list, which belongs to the last step
(20_memory.md R55, R61; log 13). -/
def Obligations.TickCommutesWithCommand : Prop :=
  ∀ (s t : State) (i : Instr), (∀ c, i ≠ .mix c) → (∀ a b, i ≠ .mixManual a b) →
    i ≠ .readReg .pwmPhase → i ≠ .readReg .outs → exec i s = .next t →
    ∃ u, exec i (pwmTick s) = .next u ∧ { u with events := [] } = pwmTick t ∧ u.events = t.events

/-! ### NOP and READ_REG -/

/-- 44_system.md R180: NOP is the all-zero word, completes in every state and does nothing but
respond. -/
def Obligations.NopRespondsOnly : Prop :=
  ∀ s : State, decode s.cfg 0#64 = .instr .nop ∧
    exec .nop s = .next { s with rspStatus := 0, rspData := 0, events := [] }

/-- 44_system.md R181: READ_REG of every existing register, its number in A, completes, responds OK with
the register's value, sign-extended for a signed register and zero-extended for an unsigned one
(10_state.md R42), and changes nothing but the response. -/
def Obligations.ReadRegReturnsTheRegister : Prop :=
  ∀ (s : State) (r : Reg), s.cfg.Legal → s.Shape → r.wf s.cfg = true →
    decode s.cfg (0x40#8 ++ 0#4 ++ 0#20 ++ r.num ++ 0#16) = .instr (.readReg r) ∧
    ∃ v : DataWord,
      exec (.readReg r) s = .next { s with rspStatus := 0, rspData := v, events := [] } ∧
      (match r with
        | .gains => v.toNat = s.pid.kp.toNat * 256 + s.pid.ki.toNat * 16 + s.pid.kd.toNat
        | .pidInt => v.toInt = s.pid.int.toInt
        | .pidHidx => v.toNat = s.pid.hidx.toNat
        | .pidLastCmd => v.toNat = s.pid.lastCmd.toNat
        | .pidLastRaw => v.toInt = s.pid.lastRaw.toInt
        | .pidFlags => v.toNat = s.pid.flags.toNat
        | .pidDshift => v.toNat = s.cfg.pidDshift
        | .pidHistLen => v.toNat = s.cfg.pidHistLen
        | .seqIdx => v.toNat = s.seq.idx.toNat
        | .seqRem => v.toNat = s.seq.rem.toNat
        | .seqAcc => v.toInt = s.seq.acc.toInt
        | .profileLen => v.toNat = s.cfg.profile.length
        | .tcLast d => ∃ c, s.tc[d.toNat]? = some c ∧ v.toNat = c.last.toNat
        | .tcAidx d => ∃ c, s.tc[d.toNat]? = some c ∧ v.toNat = c.aidx.toNat
        | .tcFault d => ∃ c, s.tc[d.toNat]? = some c ∧ v.toNat = c.fault.toNat
        | .tcFcode d => ∃ c, s.tc[d.toNat]? = some c ∧ v.toNat = c.fcode.toNat
        | .tcAvg d j => ∃ c x, s.tc[d.toNat]? = some c ∧ c.avg[j.toNat]? = some x ∧
            v.toNat = x.toNat
        | .chA => v.toNat = s.pwm.chA.toNat
        | .chB => v.toNat = s.pwm.chB.toNat
        | .pwmPhase => v.toNat = s.pwm.phase.toNat
        | .outs => v.toNat = s.pwm.outB.toNat * 2 + s.pwm.outA.toNat
        | .pidHist i => ∃ x, s.pid.hist[i.toNat]? = some x ∧ v.toInt = x.toInt
        | .profile k => ∃ w, s.cfg.profile[k.toNat]? = some w ∧ v.toNat = w.toNat)

/-! ### PID controller -/

/-- 40_pid.md R100 with R101, R102 and R103: PID_COMPUTE completes, and its result, for every gain,
operand and configuration, from every state whose ring is well formed and whose integral is in R105's
bound. `raw` is the floor of the exact weighted sum of the error, the integral BEFORE the call and the
derivative `old − cur`. -/
def Obligations.PidComputeResult : Prop :=
  ∀ (s : State) (cur tgt : BitVec 16),
    s.pid.hist.length = s.cfg.pidHistLen → s.pid.hidx.toNat < s.cfg.pidHistLen →
    s.cfg.pidHistLen ≤ 64 → s.pid.IntegralOk →
    decode s.cfg (0x01#8 ++ 0#4 ++ 0#20 ++ cur ++ tgt) = .instr (.pidCompute cur tgt) ∧
    ∃ (t : State) (old : BitVec 16) (err der raw : Int) (integ : Bool),
      exec (.pidCompute cur tgt) s = .next t ∧
      s.pid.hist[s.pid.hidx.toNat]? = some old ∧
      err = tgt.toInt - cur.toInt ∧ der = old.toInt - cur.toInt ∧
      raw = Int.fdiv (err * 2 ^ s.pid.kp.toNat + s.pid.int.toInt * 2 ^ s.pid.ki.toNat +
        der * 2 ^ s.pid.kd.toNat) (2 ^ s.cfg.pidDshift) ∧
      (integ = true ↔ (0 ≤ raw ∧ raw ≤ 255) ∨ (255 < raw ∧ err < 0) ∨ (raw < 0 ∧ 0 < err)) ∧
      t.pid.int.toInt = s.pid.int.toInt + (if integ = true then err else 0) ∧
      (t.pid.lastCmd.toNat : Int) = max 0 (min raw 255) ∧
      t.pid.lastRaw.toInt = raw ∧
      t.pid.flags.getLsbD 0 = integ ∧ (t.pid.flags.getLsbD 1 = true ↔ 255 < raw) ∧
      (t.pid.flags.getLsbD 2 = true ↔ raw < 0) ∧
      t.pid.hist = s.pid.hist.set s.pid.hidx.toNat cur ∧
      t.pid.hidx.toNat = (s.pid.hidx.toNat + 1) % s.cfg.pidHistLen ∧
      t.rspStatus = 0 ∧ t.rspData.toNat = t.pid.lastCmd.toNat + 256 * t.pid.flags.toNat ∧
      t.events = []

/-- 40_pid.md R105: from any state whose integral is within 2^33 + 2^23 + 2^17, every PID_COMPUTE
leaves it within that bound, whatever the gains and operands, and adds the error or nothing, with no
wrap; and in every state reached from power-on reset the integral is below 2^34. -/
def Obligations.IntegralNeverWraps : Prop :=
  (∀ (s t : State) (cur tgt : BitVec 16), s.cfg.pidDshift ≤ 15 →
    -(2 ^ 33 + 2 ^ 23 + 2 ^ 17) ≤ s.pid.int.toInt → s.pid.int.toInt ≤ 2 ^ 33 + 2 ^ 23 + 2 ^ 17 →
    exec (.pidCompute cur tgt) s = .next t →
    -(2 ^ 33 + 2 ^ 23 + 2 ^ 17) ≤ t.pid.int.toInt ∧ t.pid.int.toInt ≤ 2 ^ 33 + 2 ^ 23 + 2 ^ 17 ∧
    (t.pid.int.toInt = s.pid.int.toInt + (tgt.toInt - cur.toInt) ∨
      t.pid.int.toInt = s.pid.int.toInt)) ∧
  (∀ (p : Params) (inputs : List Input) (sensors : List SensorAnswer) (n : Nat) (t : State),
    p.Legal →
    core.run n ({ State.powerOn p with inputs := inputs, sensors := sensors } : State) = .next t →
    -(2 ^ 34) < t.pid.int.toInt ∧ t.pid.int.toInt < 2 ^ 34)

/-- 40_pid.md R106: the weighted sum and the unclamped command stay below 2^50, so `PID_LAST_RAW`
holds the unclamped command without loss. -/
def Obligations.WeightedSumFits : Prop :=
  ∀ (p : Params) (u : Pid) (cur tgt old : BitVec 16),
    -(2 ^ 34) < u.int.toInt → u.int.toInt < 2 ^ 34 →
    let err := pidError cur tgt
    let der := pidDerivative old cur
    let raw := pidRaw p u err der
    |shl err u.kp.toNat| < 2 ^ 32 ∧ |shl der u.kd.toNat| < 2 ^ 32 ∧
    |shl u.int.toInt u.ki.toNat| < 2 ^ 49 ∧
    |pidSum u err der| < 2 ^ 50 ∧ |raw| < 2 ^ 50 ∧ (pidLastRaw raw).toInt = raw

/-- 40_pid.md R109: the three properties of the PID controller, of every PID_COMPUTE that gives a next
state: zero in gives zero out; the power is the clamp to 0..255 of the unclamped command `raw`, which is
the floor of the exact weighted sum, so it is 255 at SAT_HI, 0 at SAT_LO and `PID_LAST_RAW` otherwise;
and a sustained positive error at saturation does not move the integral. -/
def Obligations.PidProperties : Prop :=
  ∀ (s t : State) (cur tgt : BitVec 16), exec (.pidCompute cur tgt) s = .next t →
    (tgt = cur → s.pid.hist[s.pid.hidx.toNat]? = some cur → s.pid.int = 0 →
      t.rspData.extractLsb' 0 8 = 0#8 ∧ t.rspData.getLsbD 8 = true ∧ t.pid.int = 0) ∧
    (t.rspData.extractLsb' 0 8 = t.pid.lastCmd ∧
      (∃ (old : BitVec 16) (raw : Int), s.pid.hist[s.pid.hidx.toNat]? = some old ∧
        raw = Int.fdiv ((tgt.toInt - cur.toInt) * 2 ^ s.pid.kp.toNat +
          s.pid.int.toInt * 2 ^ s.pid.ki.toNat +
          (old.toInt - cur.toInt) * 2 ^ s.pid.kd.toNat) (2 ^ s.cfg.pidDshift) ∧
        (t.pid.lastCmd.toNat : Int) = max 0 (min raw 255) ∧
        (t.rspData.getLsbD 9 = true ↔ 255 < raw) ∧ (t.rspData.getLsbD 10 = true ↔ raw < 0)) ∧
      (t.rspData.getLsbD 9 = true → t.pid.lastCmd = 255) ∧
      (t.rspData.getLsbD 10 = true → t.pid.lastCmd = 0) ∧
      (t.rspData.getLsbD 9 = false → t.rspData.getLsbD 10 = false →
        (t.pid.lastCmd.toNat : Int) = t.pid.lastRaw.toInt)) ∧
    (t.rspData.getLsbD 9 = true → cur.toInt < tgt.toInt → t.pid.int = s.pid.int)

/-- 70_reset_and_hazards.md R217: after power-on reset or PID_RESET, the oldest sample the next
PID_COMPUTE takes is `PID_ROOM` during the first `PID_HIST_LEN` calls, and from then on the current
temperature of the call `PID_HIST_LEN` calls earlier. -/
def Obligations.DerivativeSampleIsNCallsOld : Prop :=
  ∀ (s u : State) (calls : List (BitVec 16 × BitVec 16)), s.cfg.Legal →
    (u = State.powerOn s.cfg ∨ exec .pidReset s = .next u) →
    ∃ t, runInstrs (calls.map fun c => .pidCompute c.1 c.2) u = .next t ∧
      (calls.length < s.cfg.pidHistLen →
        t.pid.hist[t.pid.hidx.toNat]? = some s.cfg.pidRoom) ∧
      (s.cfg.pidHistLen ≤ calls.length →
        t.pid.hist[t.pid.hidx.toNat]? =
          (calls[calls.length - s.cfg.pidHistLen]?).map Prod.fst)

/-- 40_pid.md R107: PID_SET_GAINS, with the exponents in B[11:8], B[7:4] and B[3:0], completes in every
state, writes the three exponents at once, and changes nothing else. -/
def Obligations.PidSetGainsResult : Prop :=
  ∀ (s : State) (kp ki kd : BitVec 4),
    decode s.cfg (0x02#8 ++ 0#4 ++ 0#20 ++ 0#16 ++ 0#4 ++ kp ++ ki ++ kd) =
      .instr (.pidSetGains kp ki kd) ∧
    exec (.pidSetGains kp ki kd) s = .next { s with
      pid := { s.pid with kp := kp, ki := ki, kd := kd }
      rspStatus := 0, rspData := 0, events := [] }

/-- 40_pid.md R108: PID_RESET completes in every state, puts the history, the index, the integral and
the last-result registers at their power-on values and keeps the gains. -/
def Obligations.PidResetResult : Prop :=
  ∀ s : State, decode s.cfg (0x03#8 ++ 0#56) = .instr .pidReset ∧
    ∃ t, exec .pidReset s = .next t ∧
    t.pid.hist.length = s.cfg.pidHistLen ∧
    (∀ i, i < s.cfg.pidHistLen → t.pid.hist[i]? = some s.cfg.pidRoom) ∧
    t.pid.hidx = 0 ∧ t.pid.int = 0 ∧ t.pid.lastCmd = 0 ∧ t.pid.lastRaw = 0 ∧ t.pid.flags = 0 ∧
    t.pid.kp = s.pid.kp ∧ t.pid.ki = s.pid.ki ∧ t.pid.kd = s.pid.kd ∧
    t.rspStatus = 0 ∧ t.rspData = 0 ∧
    t = { s with pid := t.pid, rspStatus := 0, rspData := 0, events := [] }

/-! ### Profile sequencer -/

/-- 41_sequencer.md R121, a call that is not terminal: it completes, the rate is added with wrap_32,
the ticks are decremented, and at zero the index moves on and the next step's duration, if there is
one, is reloaded; TERMINAL (bit 25) is 0. -/
def Obligations.SeqAdvanceWithinProfile : Prop :=
  ∀ (s : State) (w : RomWord), s.cfg.profile.length ≤ 255 →
    s.cfg.profile[s.seq.idx.toNat]? = some w → s.seq.rem ≠ 0 →
    decode s.cfg (0x10#8 ++ 0#56) = .instr .seqAdvance ∧
    ∃ t, exec .seqAdvance s = .next t ∧
      t.seq.acc.toInt = Int.bmod (s.seq.acc.toInt + (romRate w).toInt) (2 ^ 32) ∧
      (s.seq.rem ≠ 1 → t.seq.idx = s.seq.idx ∧ t.seq.rem.toNat = s.seq.rem.toNat - 1) ∧
      (s.seq.rem = 1 → t.seq.idx.toNat = s.seq.idx.toNat + 1 ∧
        (∀ w', s.cfg.profile[s.seq.idx.toNat + 1]? = some w' → t.seq.rem = romDur w') ∧
        (s.cfg.profile[s.seq.idx.toNat + 1]? = none → t.seq.rem = 0)) ∧
      t.rspStatus = 0 ∧ t.rspData.getLsbD 25 = false ∧ t.events = []

/-- 41_sequencer.md R122: a call that starts with the index at the end completes, changes no register
but the response (a target out of range is recorded again, R125), reports TERMINAL, the target of the
unchanged accumulator and the last step's aux, and the next such call returns the same response; a call
that starts with a step left, the one that runs past the end among them, is not terminal itself. -/
def Obligations.SeqAdvanceTerminal : Prop :=
  (∀ s : State, s.cfg.profile ≠ [] → s.seq.idx.toNat = s.cfg.profile.length →
    ∃ t w, exec .seqAdvance s = .next t ∧ t.rspData.getLsbD 25 = true ∧ t.rspStatus = 0 ∧
      t.rspData.extractLsb' 0 16 = BitVec.ofInt 16 (Int.fdiv s.seq.acc.toInt 1024) ∧
      s.cfg.profile.getLast? = some w ∧ t.rspData.getLsbD 24 = w.getLsbD 15 ∧
      t.rspData.extractLsb' 16 8 = (if w.getLsbD 15 = true then w.extractLsb' 0 8 else 0#8) ∧
      t = { s with
        rspStatus := 0, rspData := t.rspData, events := [],
        targetRange := s.targetRange || t.rspData.getLsbD 26 } ∧
      exec .seqAdvance t = .next t) ∧
  (∀ s : State, s.seq.idx.toNat < s.cfg.profile.length →
    ∃ t, exec .seqAdvance s = .next t ∧ t.rspData.getLsbD 25 = false)

/-- 41_sequencer.md R123, R124 and R125: what SEQ_ADVANCE reports, from the cursor after the call: the
target is the floor of the accumulator over 1024 in 16 bits, AUX and AUX_VALID are those of step
min(SEQ_IDX, PROFILE_LEN − 1), TGT_OVF is set exactly when the accumulator is outside
−2^25..2^25−1, TargetRange is recorded with it, and every other bit of DATA is 0. -/
def Obligations.SeqAdvanceReport : Prop :=
  ∀ s : State, s.cfg.profile ≠ [] → ∃ t w,
    exec .seqAdvance s = .next t ∧
    s.cfg.profile[min t.seq.idx.toNat (s.cfg.profile.length - 1)]? = some w ∧
    t.rspData.extractLsb' 0 16 = BitVec.ofInt 16 (Int.fdiv t.seq.acc.toInt 1024) ∧
    t.rspData.extractLsb' 16 8 = (if w.getLsbD 15 = true then w.extractLsb' 0 8 else 0#8) ∧
    t.rspData.getLsbD 24 = w.getLsbD 15 ∧
    (t.rspData.getLsbD 26 = true ↔ ¬ (-(2 ^ 25) ≤ t.seq.acc.toInt ∧ t.seq.acc.toInt ≤ 2 ^ 25 - 1)) ∧
    t.rspData.extractLsb' 27 37 = 0#37 ∧
    t.targetRange = (s.targetRange || t.rspData.getLsbD 26)

/-- 41_sequencer.md R127: SEQ_RESET completes in every state of a legal configuration, gives step 0,
that step's duration and the baseline, changes nothing else, and two in a row equal one. -/
def Obligations.SeqResetResult : Prop :=
  ∀ s : State, s.cfg.Legal → decode s.cfg (0x11#8 ++ 0#56) = .instr .seqReset ∧
    ∃ t w, exec .seqReset s = .next t ∧
    s.cfg.profile[0]? = some w ∧
    t = { s with
      seq := { idx := 0, rem := romDur w, acc := s.cfg.seqBase }
      rspStatus := 0, rspData := 0, events := [] } ∧
    exec .seqReset t = .next t

/-- 41_sequencer.md R129, with the wrap of R121 throughout: from power-on reset, exactly D = Σ duration
calls of SEQ_ADVANCE are not terminal and every later one is; after n calls the accumulator is wrap_32
of the baseline plus the rates of the first n ticks (of all D once n ≥ D); and the index is at the end
exactly from call D on. -/
def Obligations.SeqRunFollowsProfile : Prop :=
  ∀ (p : Params) (n : Nat), p.Legal →
    ∃ t, runInstrs (List.replicate n .seqAdvance) (State.powerOn p) = .next t ∧
      t.seq.acc.toInt = Int.bmod (p.seqBase.toInt + ((tickRates p).take n).sum) (2 ^ 32) ∧
      (1 ≤ n → (t.rspData.getLsbD 25 = true ↔ (tickRates p).length < n)) ∧
      (t.seq.idx.toNat = p.profile.length ↔ (tickRates p).length ≤ n)

/-! ### Thermocouple reader -/

/-- 42_thermocouple.md R142 to R144, R146 and 60_exceptions.md R191: a TC_READ whose raw word shows a
fault completes whatever the window, reports the first of ZERO, ONES, OPEN, RANGE that applies, with
its sentinel and the raw word, emits one TFAULT, and changes of the block only the device's flag and
code. -/
def Obligations.FaultedRead : Prop :=
  ∀ (s : State) (d : BitVec 4) (c : TcDev) (code : BitVec 4), d.toNat < s.cfg.numTc →
    s.tc[d.toNat]? = some c →
    (let raw := sensorWord d s
     let m := raw &&& s.cfg.tcMask
     let v := m.toNat / 2 ^ s.cfg.tcShift
     code = (if m = 0 then 1 else if m = s.cfg.tcMask then 2
       else if m.getLsbD s.cfg.tcOpenBit = true then 3
       else if v < s.cfg.tcMin ∨ s.cfg.tcMax < v then 4 else 0)) →
    code ≠ 0 →
    decode s.cfg (0x20#8 ++ d ++ 0#52) = .instr (.tcRead d) ∧
    exec (.tcRead d) s = .next { s with
      tc := s.tc.set d.toNat { c with fault := 1, fcode := code }
      sensors := s.sensors.tail
      draws := s.draws + 1
      rspStatus := 2
      rspData := 0#16 ++ sensorWord d s ++ 0#12 ++ code ++
        (if code = 4 then s.cfg.sRange else 0xFFFF#16 >>> s.cfg.tcShift)
      events := [.tfault d code (sensorWord d s)] }

/-- 42_thermocouple.md R142, R145, R146 and 20_memory.md R53: a TC_READ whose masked word shows no fault
pattern and whose reading lies in the band completes, overwrites the oldest entry of the device's
window, advances its index, and reports the floor of the mean of the whole window after the push. -/
def Obligations.GoodRead : Prop :=
  ∀ (s : State) (d : BitVec 4) (c : TcDev) (v : BitVec 16), s.cfg.avgLog2 ≤ 3 →
    d.toNat < s.cfg.numTc → s.tc[d.toNat]? = some c →
    c.avg.length = 2 ^ s.cfg.avgLog2 → c.aidx.toNat < 2 ^ s.cfg.avgLog2 →
    (let m := sensorWord d s &&& s.cfg.tcMask
     m ≠ 0 ∧ m ≠ s.cfg.tcMask ∧ m.getLsbD s.cfg.tcOpenBit = false ∧
     v.toNat = m.toNat / 2 ^ s.cfg.tcShift ∧ s.cfg.tcMin ≤ v.toNat ∧ v.toNat ≤ s.cfg.tcMax) →
    decode s.cfg (0x20#8 ++ d ++ 0#52) = .instr (.tcRead d) ∧
    ∃ (t : State) (c' : TcDev), exec (.tcRead d) s = .next t ∧
      c'.avg = c.avg.set c.aidx.toNat v ∧
      c'.aidx.toNat = (c.aidx.toNat + 1) % 2 ^ s.cfg.avgLog2 ∧
      c'.last = v ∧ c'.fault = 0 ∧ c'.fcode = 0 ∧
      (t.rspData.extractLsb' 0 16).toNat =
        (c'.avg.map BitVec.toNat).sum / 2 ^ s.cfg.avgLog2 ∧
      t.rspData = 0#16 ++ sensorWord d s ++ 0#16 ++ t.rspData.extractLsb' 0 16 ∧
      t = { s with
        tc := s.tc.set d.toNat c'
        sensors := s.sensors.tail
        draws := s.draws + 1
        rspStatus := 0
        rspData := t.rspData
        events := [] }

/-- 42_thermocouple.md R148: with the default parameters the two sentinels are 8191 and 8190, both
above `TC_MAX`; and under every legal configuration with `ROOM_TC` in the band, the value of every
successful read from a state of the invariant lies in the band. -/
def Obligations.MeanLiesInBand : Prop :=
  (sentinel Params.default .openCircuit = 8191#16 ∧ sentinel Params.default .outOfBand = 8190#16 ∧
    Params.default.tcMax < 8190) ∧
  (∀ (s t : State) (d : BitVec 4), s.Inv → InBand s.cfg s.cfg.roomTc →
    exec (.tcRead d) s = .next t → t.rspStatus = 0 →
    InBand s.cfg (t.rspData.extractLsb' 0 16))

/-- 42_thermocouple.md R140: the sensor may answer any of the 2^16 words, and the read reports the word
it answered; the first byte shifted in is bits 15:8 (20_memory.md R59 item 1, taken by the spec from
general knowledge, log 6). -/
def Obligations.SensorMayAnswerAnyWord : Prop :=
  ∀ (s : State) (d : BitVec 4) (w : RawWord) (rest : List SensorAnswer), s.Inv →
    d.toNat < s.cfg.numTc → ∃ t,
      exec (.tcRead d) { s with sensors :=
        { first := w.extractLsb' 8 8, second := w.extractLsb' 0 8 } :: rest } = .next t ∧
      t.rspData.extractLsb' 32 16 = w ∧ t.sensors = rest

/-! ### Mixer and PWM output stage -/

/-- 43_mixer_pwm.md R162 (and R160): MIX completes in every state and writes the closed form, responds
with the two duties and changes nothing else. -/
def Obligations.MixClosedForm : Prop :=
  ∀ (s : State) (c : BitVec 8),
    decode s.cfg (0x30#8 ++ 0#4 ++ 0#20 ++ 0#16 ++ 0#8 ++ c) = .instr (.mix c) ∧
    ∃ a b : BitVec 8,
    exec (.mix c) s = .next { s with
      pwm := { s.pwm with chA := a, chB := b }
      rspStatus := 0, rspData := 0#48 ++ a ++ b, events := [] } ∧
    (c.toNat ≤ 169 → a.toNat = 2 * (c.toNat / 4) ∧ b.toNat = 2 * (c.toNat - c.toNat / 4)) ∧
    (169 < c.toNat → a.toNat = (if c.toNat = 255 then 255 else 2 * (c.toNat - 127)) ∧ b = 255)

/-- 43_mixer_pwm.md R161: mix(0) = (0,0), mix(255) = (255,255), and each channel is non-decreasing in
the command. -/
def Obligations.MixIsMonotone : Prop :=
  ∀ (s t u : State) (c e : BitVec 8), exec (.mix c) s = .next t → exec (.mix e) s = .next u →
    (c = 0 → t.pwm.chA = 0 ∧ t.pwm.chB = 0) ∧ (c = 255 → t.pwm.chA = 255 ∧ t.pwm.chB = 255) ∧
    (c.toNat ≤ e.toNat → t.pwm.chA.toNat ≤ u.pwm.chA.toNat ∧ t.pwm.chB.toNat ≤ u.pwm.chB.toNat)

/-- 43_mixer_pwm.md R163: MIX_MANUAL completes in every state, writes the two duties it is given,
responds with them and changes nothing else. -/
def Obligations.MixManualResult : Prop :=
  ∀ (s : State) (a b : BitVec 8),
    decode s.cfg (0x31#8 ++ 0#4 ++ 0#20 ++ 0#16 ++ a ++ b) = .instr (.mixManual a b) ∧
    exec (.mixManual a b) s = .next { s with
    pwm := { s.pwm with chA := a, chB := b }
    rspStatus := 0, rspData := 0#48 ++ a ++ b, events := [] }

/-- 43_mixer_pwm.md R167, for every interleaving (20_memory.md R61): over any run of steps that takes
255 PWM_TICKs, whatever commands, ILLEGAL words, resets or idle steps fall between them, if `CH_A` holds
`c` throughout the run then OUT_A is set to 1 by exactly `c` of the ticks, whatever the starting phase;
the same for channel b; and at every phase a larger duty is on whenever a smaller one is. -/
def Obligations.DutyIsTicksOnPerPeriod : Prop :=
  (∀ (s : State) (n : Nat) (c : BitVec 8), s.pwm.phase.toNat ≤ 254 → (ticksTaken n s).length = 255 →
    ((∀ p ∈ stepsTaken n s, p.1.pwm.chA = c ∧ p.2.pwm.chA = c) →
      ((ticksTaken n s).filter fun p => p.2.pwm.outA == 1).length = c.toNat) ∧
    ((∀ p ∈ stepsTaken n s, p.1.pwm.chB = c ∧ p.2.pwm.chB = c) →
      ((ticksTaken n s).filter fun p => p.2.pwm.outB == 1).length = c.toNat)) ∧
  (∀ s u : State, s.pwm.phase = u.pwm.phase →
    (s.pwm.chA.toNat ≤ u.pwm.chA.toNat → (pwmTick s).pwm.outA = 1 → (pwmTick u).pwm.outA = 1) ∧
    (s.pwm.chB.toNat ≤ u.pwm.chB.toNat → (pwmTick s).pwm.outB = 1 → (pwmTick u).pwm.outB = 1))

/-! ### Pseudo-instructions -/

/-- 30_encoding.md R82: CONTROL is a PID_COMPUTE and then a MIX of the power that PID_COMPUTE
responded with; the one-command pseudo-instructions are their command, and SAMPLE reads device 0 and
then device 1. R82 writes SAMPLE for two devices; that it is the same two commands where more exist is
the model's reading, log 20. -/
def Obligations.PseudoInstructionsExpand : Prop :=
  ∀ s : State, s.cfg.Legal →
    (∀ cur tgt t, exec (.pidCompute cur tgt) s = .next t →
      runPseudo (.control cur tgt) s = exec (.mix t.pid.lastCmd) t) ∧
    (∀ kp ki kd, runPseudo (.gains kp ki kd) s = exec (.pidSetGains kp ki kd) s) ∧
    (∀ a b, runPseudo (.manual a b) s = exec (.mixManual a b) s) ∧
    runPseudo .heatersOff s = exec (.mixManual 0 0) s ∧
    runPseudo .restart s = exec .seqReset s ∧
    (2 ≤ s.cfg.numTc → runPseudo .sample s = runInstrs [.tcRead 0, .tcRead 1] s)

/-! ### What power-on reset leaves beside the block -/

/-- What power-on reset does to the model's own fields, all the model's choice: it is one entry of the
schedule (log 12), and it keeps the configuration, the rest of the schedule and the sensors' answers
(log 12) and the recorded TargetRange (log 8), with no event left (log 13); the block is as
`State.powerOn` has it. -/
def Obligations.PowerOnResetKeepsOutsideWorld : Prop :=
  ∀ (s : State) (rest : List Input), s.cfg.Legal → s.inputs = .powerOnReset :: rest →
    step s = .next { State.powerOn s.cfg with
      targetRange := s.targetRange, inputs := rest, sensors := s.sensors, draws := s.draws }
end

