-- ==== Sys2Proof/Laws/State.lean ====
section
/-! SUPPORT. One lemma per field per update of the state, each true by rfl, so that no later proof
unfolds a record update. -/

namespace Sys2Proof.Machine

variable (s : State)

/-! ### `State.setPid` -/

@[simp] theorem State.setPid_cfg (u : Pid) :
    (s.setPid u).cfg = s.cfg := rfl
@[simp] theorem State.setPid_pid (u : Pid) :
    (s.setPid u).pid = u := rfl
@[simp] theorem State.setPid_seq (u : Pid) :
    (s.setPid u).seq = s.seq := rfl
@[simp] theorem State.setPid_tc (u : Pid) :
    (s.setPid u).tc = s.tc := rfl
@[simp] theorem State.setPid_pwm (u : Pid) :
    (s.setPid u).pwm = s.pwm := rfl
@[simp] theorem State.setPid_rspStatus (u : Pid) :
    (s.setPid u).rspStatus = s.rspStatus := rfl
@[simp] theorem State.setPid_rspData (u : Pid) :
    (s.setPid u).rspData = s.rspData := rfl
@[simp] theorem State.setPid_events (u : Pid) :
    (s.setPid u).events = s.events := rfl
@[simp] theorem State.setPid_targetRange (u : Pid) :
    (s.setPid u).targetRange = s.targetRange := rfl
@[simp] theorem State.setPid_inputs (u : Pid) :
    (s.setPid u).inputs = s.inputs := rfl
@[simp] theorem State.setPid_sensors (u : Pid) :
    (s.setPid u).sensors = s.sensors := rfl
@[simp] theorem State.setPid_draws (u : Pid) :
    (s.setPid u).draws = s.draws := rfl

/-! ### `State.setSeq` -/

@[simp] theorem State.setSeq_cfg (c : Cursor) :
    (s.setSeq c).cfg = s.cfg := rfl
@[simp] theorem State.setSeq_pid (c : Cursor) :
    (s.setSeq c).pid = s.pid := rfl
@[simp] theorem State.setSeq_seq (c : Cursor) :
    (s.setSeq c).seq = c := rfl
@[simp] theorem State.setSeq_tc (c : Cursor) :
    (s.setSeq c).tc = s.tc := rfl
@[simp] theorem State.setSeq_pwm (c : Cursor) :
    (s.setSeq c).pwm = s.pwm := rfl
@[simp] theorem State.setSeq_rspStatus (c : Cursor) :
    (s.setSeq c).rspStatus = s.rspStatus := rfl
@[simp] theorem State.setSeq_rspData (c : Cursor) :
    (s.setSeq c).rspData = s.rspData := rfl
@[simp] theorem State.setSeq_events (c : Cursor) :
    (s.setSeq c).events = s.events := rfl
@[simp] theorem State.setSeq_targetRange (c : Cursor) :
    (s.setSeq c).targetRange = s.targetRange := rfl
@[simp] theorem State.setSeq_inputs (c : Cursor) :
    (s.setSeq c).inputs = s.inputs := rfl
@[simp] theorem State.setSeq_sensors (c : Cursor) :
    (s.setSeq c).sensors = s.sensors := rfl
@[simp] theorem State.setSeq_draws (c : Cursor) :
    (s.setSeq c).draws = s.draws := rfl

/-! ### `State.setTc` -/

@[simp] theorem State.setTc_cfg (d : BitVec 4) (t : TcDev) :
    (s.setTc d t).cfg = s.cfg := rfl
@[simp] theorem State.setTc_pid (d : BitVec 4) (t : TcDev) :
    (s.setTc d t).pid = s.pid := rfl
@[simp] theorem State.setTc_seq (d : BitVec 4) (t : TcDev) :
    (s.setTc d t).seq = s.seq := rfl
@[simp] theorem State.setTc_tc (d : BitVec 4) (t : TcDev) :
    (s.setTc d t).tc = s.tc.set d.toNat t := rfl
@[simp] theorem State.setTc_pwm (d : BitVec 4) (t : TcDev) :
    (s.setTc d t).pwm = s.pwm := rfl
@[simp] theorem State.setTc_rspStatus (d : BitVec 4) (t : TcDev) :
    (s.setTc d t).rspStatus = s.rspStatus := rfl
@[simp] theorem State.setTc_rspData (d : BitVec 4) (t : TcDev) :
    (s.setTc d t).rspData = s.rspData := rfl
@[simp] theorem State.setTc_events (d : BitVec 4) (t : TcDev) :
    (s.setTc d t).events = s.events := rfl
@[simp] theorem State.setTc_targetRange (d : BitVec 4) (t : TcDev) :
    (s.setTc d t).targetRange = s.targetRange := rfl
@[simp] theorem State.setTc_inputs (d : BitVec 4) (t : TcDev) :
    (s.setTc d t).inputs = s.inputs := rfl
@[simp] theorem State.setTc_sensors (d : BitVec 4) (t : TcDev) :
    (s.setTc d t).sensors = s.sensors := rfl
@[simp] theorem State.setTc_draws (d : BitVec 4) (t : TcDev) :
    (s.setTc d t).draws = s.draws := rfl

/-! ### `State.setPwm` -/

@[simp] theorem State.setPwm_cfg (o : Pwm) :
    (s.setPwm o).cfg = s.cfg := rfl
@[simp] theorem State.setPwm_pid (o : Pwm) :
    (s.setPwm o).pid = s.pid := rfl
@[simp] theorem State.setPwm_seq (o : Pwm) :
    (s.setPwm o).seq = s.seq := rfl
@[simp] theorem State.setPwm_tc (o : Pwm) :
    (s.setPwm o).tc = s.tc := rfl
@[simp] theorem State.setPwm_pwm (o : Pwm) :
    (s.setPwm o).pwm = o := rfl
@[simp] theorem State.setPwm_rspStatus (o : Pwm) :
    (s.setPwm o).rspStatus = s.rspStatus := rfl
@[simp] theorem State.setPwm_rspData (o : Pwm) :
    (s.setPwm o).rspData = s.rspData := rfl
@[simp] theorem State.setPwm_events (o : Pwm) :
    (s.setPwm o).events = s.events := rfl
@[simp] theorem State.setPwm_targetRange (o : Pwm) :
    (s.setPwm o).targetRange = s.targetRange := rfl
@[simp] theorem State.setPwm_inputs (o : Pwm) :
    (s.setPwm o).inputs = s.inputs := rfl
@[simp] theorem State.setPwm_sensors (o : Pwm) :
    (s.setPwm o).sensors = s.sensors := rfl
@[simp] theorem State.setPwm_draws (o : Pwm) :
    (s.setPwm o).draws = s.draws := rfl

/-! ### `State.recordTargetRange` -/

@[simp] theorem State.recordTargetRange_cfg (b : Bool) :
    (s.recordTargetRange b).cfg = s.cfg := rfl
@[simp] theorem State.recordTargetRange_pid (b : Bool) :
    (s.recordTargetRange b).pid = s.pid := rfl
@[simp] theorem State.recordTargetRange_seq (b : Bool) :
    (s.recordTargetRange b).seq = s.seq := rfl
@[simp] theorem State.recordTargetRange_tc (b : Bool) :
    (s.recordTargetRange b).tc = s.tc := rfl
@[simp] theorem State.recordTargetRange_pwm (b : Bool) :
    (s.recordTargetRange b).pwm = s.pwm := rfl
@[simp] theorem State.recordTargetRange_rspStatus (b : Bool) :
    (s.recordTargetRange b).rspStatus = s.rspStatus := rfl
@[simp] theorem State.recordTargetRange_rspData (b : Bool) :
    (s.recordTargetRange b).rspData = s.rspData := rfl
@[simp] theorem State.recordTargetRange_events (b : Bool) :
    (s.recordTargetRange b).events = s.events := rfl
@[simp] theorem State.recordTargetRange_targetRange (b : Bool) :
    (s.recordTargetRange b).targetRange = (s.targetRange || b) := rfl
@[simp] theorem State.recordTargetRange_inputs (b : Bool) :
    (s.recordTargetRange b).inputs = s.inputs := rfl
@[simp] theorem State.recordTargetRange_sensors (b : Bool) :
    (s.recordTargetRange b).sensors = s.sensors := rfl
@[simp] theorem State.recordTargetRange_draws (b : Bool) :
    (s.recordTargetRange b).draws = s.draws := rfl

/-! ### `State.afterDraw` -/

@[simp] theorem State.afterDraw_cfg :
    (s.afterDraw).cfg = s.cfg := rfl
@[simp] theorem State.afterDraw_pid :
    (s.afterDraw).pid = s.pid := rfl
@[simp] theorem State.afterDraw_seq :
    (s.afterDraw).seq = s.seq := rfl
@[simp] theorem State.afterDraw_tc :
    (s.afterDraw).tc = s.tc := rfl
@[simp] theorem State.afterDraw_pwm :
    (s.afterDraw).pwm = s.pwm := rfl
@[simp] theorem State.afterDraw_rspStatus :
    (s.afterDraw).rspStatus = s.rspStatus := rfl
@[simp] theorem State.afterDraw_rspData :
    (s.afterDraw).rspData = s.rspData := rfl
@[simp] theorem State.afterDraw_events :
    (s.afterDraw).events = s.events := rfl
@[simp] theorem State.afterDraw_targetRange :
    (s.afterDraw).targetRange = s.targetRange := rfl
@[simp] theorem State.afterDraw_inputs :
    (s.afterDraw).inputs = s.inputs := rfl
@[simp] theorem State.afterDraw_sensors :
    (s.afterDraw).sensors = s.sensors.tail := rfl
@[simp] theorem State.afterDraw_draws :
    (s.afterDraw).draws = s.draws + 1 := rfl

/-! ### `State.respond` -/

@[simp] theorem State.respond_cfg (st : Status) (d : DataWord) (e : List Event) :
    (s.respond st d e).cfg = s.cfg := rfl
@[simp] theorem State.respond_pid (st : Status) (d : DataWord) (e : List Event) :
    (s.respond st d e).pid = s.pid := rfl
@[simp] theorem State.respond_seq (st : Status) (d : DataWord) (e : List Event) :
    (s.respond st d e).seq = s.seq := rfl
@[simp] theorem State.respond_tc (st : Status) (d : DataWord) (e : List Event) :
    (s.respond st d e).tc = s.tc := rfl
@[simp] theorem State.respond_pwm (st : Status) (d : DataWord) (e : List Event) :
    (s.respond st d e).pwm = s.pwm := rfl
@[simp] theorem State.respond_rspStatus (st : Status) (d : DataWord) (e : List Event) :
    (s.respond st d e).rspStatus = statusCode st := rfl
@[simp] theorem State.respond_rspData (st : Status) (d : DataWord) (e : List Event) :
    (s.respond st d e).rspData = d := rfl
@[simp] theorem State.respond_events (st : Status) (d : DataWord) (e : List Event) :
    (s.respond st d e).events = e := rfl
@[simp] theorem State.respond_targetRange (st : Status) (d : DataWord) (e : List Event) :
    (s.respond st d e).targetRange = s.targetRange := rfl
@[simp] theorem State.respond_inputs (st : Status) (d : DataWord) (e : List Event) :
    (s.respond st d e).inputs = s.inputs := rfl
@[simp] theorem State.respond_sensors (st : Status) (d : DataWord) (e : List Event) :
    (s.respond st d e).sensors = s.sensors := rfl
@[simp] theorem State.respond_draws (st : Status) (d : DataWord) (e : List Event) :
    (s.respond st d e).draws = s.draws := rfl

/-! ### `State.writeDuties` -/

@[simp] theorem State.writeDuties_cfg (a b : BitVec 8) :
    (s.writeDuties a b).cfg = s.cfg := rfl
@[simp] theorem State.writeDuties_pid (a b : BitVec 8) :
    (s.writeDuties a b).pid = s.pid := rfl
@[simp] theorem State.writeDuties_seq (a b : BitVec 8) :
    (s.writeDuties a b).seq = s.seq := rfl
@[simp] theorem State.writeDuties_tc (a b : BitVec 8) :
    (s.writeDuties a b).tc = s.tc := rfl
@[simp] theorem State.writeDuties_pwm (a b : BitVec 8) :
    (s.writeDuties a b).pwm = { s.pwm with chA := a, chB := b } := rfl
@[simp] theorem State.writeDuties_rspStatus (a b : BitVec 8) :
    (s.writeDuties a b).rspStatus = 0 := rfl
@[simp] theorem State.writeDuties_rspData (a b : BitVec 8) :
    (s.writeDuties a b).rspData = mixData a b := rfl
@[simp] theorem State.writeDuties_events (a b : BitVec 8) :
    (s.writeDuties a b).events = [] := rfl
@[simp] theorem State.writeDuties_targetRange (a b : BitVec 8) :
    (s.writeDuties a b).targetRange = s.targetRange := rfl
@[simp] theorem State.writeDuties_inputs (a b : BitVec 8) :
    (s.writeDuties a b).inputs = s.inputs := rfl
@[simp] theorem State.writeDuties_sensors (a b : BitVec 8) :
    (s.writeDuties a b).sensors = s.sensors := rfl
@[simp] theorem State.writeDuties_draws (a b : BitVec 8) :
    (s.writeDuties a b).draws = s.draws := rfl

/-! ### `pwmTick` -/

@[simp] theorem pwmTick_cfg : (pwmTick s).cfg = s.cfg := rfl
@[simp] theorem pwmTick_pid : (pwmTick s).pid = s.pid := rfl
@[simp] theorem pwmTick_seq : (pwmTick s).seq = s.seq := rfl
@[simp] theorem pwmTick_tc : (pwmTick s).tc = s.tc := rfl
@[simp] theorem pwmTick_pwm : (pwmTick s).pwm = pwmNext s.pwm := rfl
@[simp] theorem pwmTick_rspStatus : (pwmTick s).rspStatus = s.rspStatus := rfl
@[simp] theorem pwmTick_rspData : (pwmTick s).rspData = s.rspData := rfl
@[simp] theorem pwmTick_events : (pwmTick s).events = [] := rfl
@[simp] theorem pwmTick_targetRange : (pwmTick s).targetRange = s.targetRange := rfl
@[simp] theorem pwmTick_inputs : (pwmTick s).inputs = s.inputs := rfl
@[simp] theorem pwmTick_sensors : (pwmTick s).sensors = s.sensors := rfl
@[simp] theorem pwmTick_draws : (pwmTick s).draws = s.draws := rfl

/-! ### `powerOnReset` -/

@[simp] theorem powerOnReset_cfg : (powerOnReset s).cfg = s.cfg := rfl
@[simp] theorem powerOnReset_pid : (powerOnReset s).pid = Pid.powerOn s.cfg := rfl
@[simp] theorem powerOnReset_seq : (powerOnReset s).seq = Cursor.powerOn s.cfg := rfl
@[simp] theorem powerOnReset_tc : (powerOnReset s).tc = List.replicate s.cfg.numTc (TcDev.powerOn s.cfg) := rfl
@[simp] theorem powerOnReset_pwm : (powerOnReset s).pwm = Pwm.powerOn := rfl
@[simp] theorem powerOnReset_rspStatus : (powerOnReset s).rspStatus = 0 := rfl
@[simp] theorem powerOnReset_rspData : (powerOnReset s).rspData = 0 := rfl
@[simp] theorem powerOnReset_events : (powerOnReset s).events = [] := rfl
@[simp] theorem powerOnReset_targetRange : (powerOnReset s).targetRange = s.targetRange := rfl
@[simp] theorem powerOnReset_inputs : (powerOnReset s).inputs = s.inputs := rfl
@[simp] theorem powerOnReset_sensors : (powerOnReset s).sensors = s.sensors := rfl
@[simp] theorem powerOnReset_draws : (powerOnReset s).draws = s.draws := rfl

/-! ### `takeIllegal` -/

@[simp] theorem takeIllegal_cfg (w : CmdWord) :
    (takeIllegal w s).cfg = s.cfg := rfl
@[simp] theorem takeIllegal_pid (w : CmdWord) :
    (takeIllegal w s).pid = s.pid := rfl
@[simp] theorem takeIllegal_seq (w : CmdWord) :
    (takeIllegal w s).seq = s.seq := rfl
@[simp] theorem takeIllegal_tc (w : CmdWord) :
    (takeIllegal w s).tc = s.tc := rfl
@[simp] theorem takeIllegal_pwm (w : CmdWord) :
    (takeIllegal w s).pwm = s.pwm := rfl
@[simp] theorem takeIllegal_rspStatus (w : CmdWord) :
    (takeIllegal w s).rspStatus = 1 := rfl
@[simp] theorem takeIllegal_rspData (w : CmdWord) :
    (takeIllegal w s).rspData = w := rfl
@[simp] theorem takeIllegal_events (w : CmdWord) :
    (takeIllegal w s).events = [.gfault (opField w)] := rfl
@[simp] theorem takeIllegal_targetRange (w : CmdWord) :
    (takeIllegal w s).targetRange = s.targetRange := rfl
@[simp] theorem takeIllegal_inputs (w : CmdWord) :
    (takeIllegal w s).inputs = s.inputs := rfl
@[simp] theorem takeIllegal_sensors (w : CmdWord) :
    (takeIllegal w s).sensors = s.sensors := rfl
@[simp] theorem takeIllegal_draws (w : CmdWord) :
    (takeIllegal w s).draws = s.draws := rfl

end Sys2Proof.Machine
end

