-- ==== Sys2Proof/Laws/Ops.lean ====
section
/-! SUPPORT. One lemma per shared operation of Machine/Ops.lean and Machine/Operands.lean that says
everything it can do, so that a proof cites it and never unfolds the operation; and that every
operation over the internal memories keeps their shape (20_memory.md R51). -/

namespace Sys2Proof.Machine

/-! ### Numbers -/

/-- `asr` is the floor of the quotient. -/
theorem asr_eq_fdiv (v : Int) (k : Nat) : asr v k = Int.fdiv v (2 ^ k) := by
  rw [asr, Int.fdiv_eq_ediv_of_nonneg _ (by positivity)]

theorem clamp_byte_eq (v : Int) : clamp v 0 255 = max 0 (min v 255) := by
  unfold clamp
  split
  · omega
  · split <;> omega

/-! ### The internal memories -/

theorem memRead_eq_some {α : Type} {m : List α} {n i : Nat} {v : α} :
    memRead m n i = some v ↔ i < n ∧ m[i]? = some v := by
  unfold memRead; split <;> simp_all

theorem memRead_eq_none {α : Type} {m : List α} {n i : Nat} :
    memRead m n i = none ↔ ¬ (i < n ∧ i < m.length) := by
  unfold memRead; split <;> simp_all

/-- A table read is a list read of the ROM words. -/
theorem profRead_eq (p : Params) (k : Nat) : profRead p k = p.profile[k]?.map stepOfRom := by
  unfold profRead memRead Params.profileLen
  split
  · rfl
  · rw [List.getElem?_eq_none (by omega)]

/-- Every word of a well-formed table is a well-formed ROM word. -/
theorem romOk_of_profileOk {p : Params} (h : p.ProfileOk) : ∀ w ∈ p.profile, RomWord.Ok w :=
  fun w hw => of_decide_eq_true (List.all_eq_true.1 h.2 w hw)

theorem histPushPopOldest_eq_some {p : Params} {v old : BitVec 16} {u w : Pid} :
    histPushPopOldest p v u = some (old, w) ↔
      u.hidx.toNat < p.pidHistLen ∧ u.hist[u.hidx.toNat]? = some old ∧
      w = { u with
        hist := u.hist.set u.hidx.toNat v
        hidx := BitVec.ofNat 6 ((u.hidx.toNat + 1) % p.pidHistLen) } := by
  unfold histPushPopOldest
  cases h : memRead u.hist p.pidHistLen u.hidx.toNat with
  | none =>
    rw [memRead_eq_none] at h
    simp only [reduceCtorEq, false_iff]
    intro ⟨h1, h2, _⟩
    exact h ⟨h1, (List.getElem?_eq_some_iff.1 h2).1⟩
  | some o =>
    rw [memRead_eq_some] at h
    obtain ⟨h1, h2⟩ := h
    simp only [Option.some.injEq, Prod.mk.injEq, h1, h2, true_and]
    constructor
    · rintro ⟨rfl, rfl⟩; exact ⟨rfl, rfl⟩
    · rintro ⟨rfl, rfl⟩; exact ⟨rfl, rfl⟩

theorem histPushPopOldest_eq_none {p : Params} {v : BitVec 16} {u : Pid} :
    histPushPopOldest p v u = none ↔
      ¬ (u.hidx.toNat < p.pidHistLen ∧ u.hidx.toNat < u.hist.length) := by
  rw [← memRead_eq_none]
  unfold histPushPopOldest
  cases h : memRead u.hist p.pidHistLen u.hidx.toNat <;> simp

/-- The advanced ring index is stored without loss. -/
theorem hidx_next_toNat {n k : Nat} (hn : 0 < n) (h : n ≤ 64) :
    (BitVec.ofNat 6 ((k + 1) % n)).toNat = (k + 1) % n := by
  rw [BitVec.toNat_ofNat]
  exact Nat.mod_eq_of_lt (lt_of_lt_of_le (Nat.mod_lt _ hn) h)

/-- The advanced window index is stored without loss. -/
theorem aidx_next_toNat {p : Params} (h : p.avgLog2 ≤ 3) (k : Nat) :
    (BitVec.ofNat 3 ((k + 1) % p.window)).toNat = (k + 1) % 2 ^ p.avgLog2 := by
  have hw : p.window ≤ 8 :=
    le_trans (Nat.pow_le_pow_right (by norm_num) h) (by norm_num)
  have h0 : 0 < p.window := Nat.two_pow_pos _
  have := Nat.mod_lt (k + 1) h0
  rw [BitVec.toNat_ofNat, Nat.mod_eq_of_lt (by omega)]
  rfl

/-- The mean of a whole window is stored without loss. -/
theorem avgMean_toNat {p : Params} {t : TcDev} (hlen : t.avg.length = p.window) :
    (avgMean p t).toNat = (t.avg.map BitVec.toNat).sum / 2 ^ p.avgLog2 := by
  have hsum : ∀ l : List (BitVec 16), (l.map BitVec.toNat).sum ≤ l.length * 65535 := by
    intro l
    induction l with
    | nil => simp
    | cons a l ih =>
      have := a.isLt
      simp only [List.map_cons, List.sum_cons, List.length_cons]
      omega
  have h := hsum t.avg
  rw [hlen] at h
  rw [avgMean, BitVec.toNat_ofNat]
  apply Nat.mod_eq_of_lt
  rw [Nat.div_lt_iff_lt_mul (Nat.two_pow_pos _)]
  have h2 : 0 < 2 ^ p.avgLog2 := Nat.two_pow_pos _
  unfold avgSum Params.window at *
  omega

/-- A listed sensor answer is the one the next transaction gets. -/
theorem sensorWord_of_listed {s : State} {a : SensorAnswer} {rest : List SensorAnswer}
    (h : s.sensors = a :: rest) (d : BitVec 4) : sensorWord d s = a.first ++ a.second := by
  simp only [sensorWord, sensorAnswer, h, rawOfAnswer]

theorem tcDev_eq_some {s : State} {d : BitVec 4} {t : TcDev} :
    tcDev s d = some t ↔ d.toNat < s.cfg.numTc ∧ s.tc[d.toNat]? = some t := memRead_eq_some

theorem tcDev_eq_none {s : State} {d : BitVec 4} :
    tcDev s d = none ↔ ¬ (d.toNat < s.cfg.numTc ∧ d.toNat < s.tc.length) := memRead_eq_none

/-- Zero extension keeps the unsigned value. -/
theorem zext64_toNat {n : Nat} (v : BitVec n) (h : n ≤ 64) : (zext64 v).toNat = v.toNat := by
  rw [zext64, BitVec.toNat_setWidth]
  exact Nat.mod_eq_of_lt (lt_of_lt_of_le v.isLt (Nat.pow_le_pow_right (by norm_num) h))

/-- Sign extension keeps the signed value. -/
theorem sext64_toInt {n : Nat} (v : BitVec n) (h : n ≤ 64) : (sext64 v).toInt = v.toInt :=
  BitVec.toInt_signExtend_of_le h

/-! ### The shape of the memories is kept -/

/-- Pushing a sample keeps the ring's length. -/
theorem histPushPopOldest_length {p : Params} {v old : BitVec 16} {u w : Pid}
    (h : histPushPopOldest p v u = some (old, w)) : w.hist.length = u.hist.length := by
  obtain ⟨_, _, rfl⟩ := histPushPopOldest_eq_some.1 h
  exact List.length_set

/-- Pushing a reading keeps the window's length. -/
theorem avgPush_length (p : Params) (v : BitVec 16) (t : TcDev) :
    (avgPush p v t).avg.length = t.avg.length := List.length_set

/-- Writing the PID unit keeps the shape if the ring's length is kept. -/
theorem State.Shape.setPid {s : State} (h : s.Shape) {u : Pid}
    (hu : u.hist.length = s.pid.hist.length) : (s.setPid u).Shape :=
  ⟨hu.trans h.1, h.2⟩

/-- Writing a device keeps the shape if its window has its length. -/
theorem State.Shape.setTc {s : State} (h : s.Shape) {d : BitVec 4} {t : TcDev}
    (ht : t.avg.length = s.cfg.window) : (s.setTc d t).Shape := by
  refine ⟨h.1, List.length_set.trans h.2.1, ?_⟩
  intro x hx
  rcases List.mem_or_eq_of_mem_set hx with hm | rfl
  · exact h.2.2 x hm
  · exact ht

/-- A response keeps the shape. -/
theorem State.Shape.respond {s : State} (h : s.Shape) (st : Status) (v : DataWord)
    (e : List Event) : (s.respond st v e).Shape := h

/-- The shape after power-on reset. -/
theorem shape_powerOn (p : Params) : (State.powerOn p).Shape := by
  refine ⟨List.length_replicate, List.length_replicate, ?_⟩
  intro t ht
  rw [List.eq_of_mem_replicate ht]
  exact List.length_replicate

/-- The shape right after reset. -/
theorem shape_reset : State.reset.Shape := shape_powerOn Params.default

end Sys2Proof.Machine
end

