-- ==== Sys2Proof/Laws/Units.lean ====
section
/-! SUPPORT. What each unit's computations give: the flags, the fields of each response, the cursor
and the fault codes; and one lemma per command, and one for the step, that says everything it can
do. -/

namespace Sys2Proof.Machine

/-! ### PID controller -/

theorem windupAllows_iff (raw err : Int) : windupAllows raw err = true ↔
    (0 ≤ raw ∧ raw ≤ 255) ∨ (255 < raw ∧ err < 0) ∨ (raw < 0 ∧ 0 < err) := by
  simp [windupAllows]; omega

/-- The power is the clamped unclamped command. -/
theorem pidOut_toNat (raw : Int) : ((pidOut raw).toNat : Int) = max 0 (min raw 255) := by
  rw [pidOut, clamp_byte_eq, BitVec.toNat_ofInt]
  omega

/-- The three bits of `PID_FLAGS`. -/
theorem pidFlags_getLsbD (raw : Int) (i : Bool) :
    (pidFlags raw i).getLsbD 0 = i ∧ (pidFlags raw i).getLsbD 1 = decide (raw > 255) ∧
    (pidFlags raw i).getLsbD 2 = decide (raw < 0) := by
  unfold pidFlags
  generalize decide (raw < 0) = a
  generalize decide (raw > 255) = b
  cases a <;> cases b <;> cases i <;> decide

/-- `PID_LAST_RAW` holds without loss every value that fits 64 bits. -/
theorem pidLastRaw_toInt {raw : Int}
    (h : -9223372036854775808 ≤ raw ∧ raw ≤ 9223372036854775807) :
    (pidLastRaw raw).toInt = raw := by
  rw [pidLastRaw, if_pos h, BitVec.toInt_ofInt]
  apply Int.bmod_eq_of_le <;> norm_num <;> omega

/-- The fields of PID_COMPUTE's response. -/
theorem pidData_fields (f : BitVec 3) (o : BitVec 8) :
    (pidData f o).extractLsb' 0 8 = o ∧ (pidData f o).getLsbD 8 = f.getLsbD 0 ∧
    (pidData f o).getLsbD 9 = f.getLsbD 1 ∧ (pidData f o).getLsbD 10 = f.getLsbD 2 := by
  have key : ∀ i, (pidData f o).getLsbD i =
      BitVec.getLsbD (w := 53 + 3 + 8) (0#53 ++ f ++ o) i := fun _ => rfl
  refine ⟨?_, ?_, ?_, ?_⟩
  · apply BitVec.eq_of_getLsbD_eq
    intro i hi
    rw [BitVec.getLsbD_extractLsb', key]
    simp only [BitVec.getLsbD_append]
    simp [hi]
  all_goals
    rw [key]
    simp only [BitVec.getLsbD_append]
    simp

/-- Everything PID_COMPUTE can do when it gives a next state. -/
theorem exec_pidCompute_next {cur tgt : BitVec 16} {s t : State} :
    exec (.pidCompute cur tgt) s = .next t ↔
    ∃ old, s.pid.hidx.toNat < s.cfg.pidHistLen ∧ s.pid.hist[s.pid.hidx.toNat]? = some old ∧
      t = (let v := { s.pid with
              hist := s.pid.hist.set s.pid.hidx.toNat cur
              hidx := BitVec.ofNat 6 ((s.pid.hidx.toNat + 1) % s.cfg.pidHistLen) }
           let u := pidNext s.cfg s.pid v old cur tgt
           (s.setPid u).respond .ok (pidData u.flags u.lastCmd) []) := by
  simp only [exec, execPidCompute]
  cases h : histPushPopOldest s.cfg cur s.pid with
  | none =>
    simp only [reduceCtorEq, false_iff]
    rintro ⟨old, h1, h2, _⟩
    exact histPushPopOldest_eq_none.1 h ⟨h1, (List.getElem?_eq_some_iff.1 h2).1⟩
  | some r =>
    obtain ⟨old, v⟩ := r
    obtain ⟨h1, h2, rfl⟩ := histPushPopOldest_eq_some.1 h
    simp only [h1, h2, Option.some.injEq, true_and, exists_eq_left', Host.Outcome.next.injEq]
    exact ⟨fun h => h.symm, fun h => h.symm⟩

/-! ### Profile sequencer -/

/-- The target is the floor of the accumulator over 1024. -/
theorem target_eq_fdiv (c : Cursor) : target c = Int.fdiv c.acc.toInt 1024 := by
  rw [target, asr_eq_fdiv]; norm_num

theorem targetOverflow_iff (c : Cursor) : targetOverflow c = true ↔
    ¬ (-(2 ^ 25) ≤ c.acc.toInt ∧ c.acc.toInt ≤ 2 ^ 25 - 1) := by
  simp only [targetOverflow, Bool.not_eq_true', decide_eq_false_iff_not]
  unfold target asr
  norm_num
  omega

theorem terminal_iff {p : Params} {c : Cursor} :
    terminal p c = true ↔ p.profile.length ≤ c.idx.toNat := decide_eq_true_iff

/-- A terminal cursor stands still. -/
theorem cursorNext_of_terminal {p : Params} {c : Cursor} (h : p.profile.length ≤ c.idx.toNat) :
    cursorNext p c = c := by
  rw [cursorNext, profRead_eq, List.getElem?_eq_none h]; rfl

/-- A decrement from at least 1 loses nothing. -/
theorem rem_pred_toNat {r : BitVec 16} (h : r ≠ 0) : (r - 1).toNat = r.toNat - 1 := by
  have : r.toNat ≠ 0 := fun e => h (BitVec.eq_of_toNat_eq e)
  have := r.isLt
  rw [BitVec.toNat_sub]; simp; omega

/-- A cursor with ticks left adds the rate, counts down, and moves on at zero. -/
theorem cursorNext_of_running {p : Params} {c : Cursor} {w : RomWord}
    (hl : p.profile.length ≤ 255) (hw : p.profile[c.idx.toNat]? = some w) (hr : c.rem ≠ 0) :
    (cursorNext p c).acc = BitVec.ofInt 32 (c.acc.toInt + (romRate w).toInt) ∧
      (c.rem ≠ 1 → (cursorNext p c).idx = c.idx ∧
        (cursorNext p c).rem.toNat = c.rem.toNat - 1) ∧
      (c.rem = 1 → (cursorNext p c).idx.toNat = c.idx.toNat + 1 ∧
        (∀ w', p.profile[c.idx.toNat + 1]? = some w' → (cursorNext p c).rem = romDur w') ∧
        (p.profile[c.idx.toNat + 1]? = none → (cursorNext p c).rem = 0)) := by
  have hi := (List.getElem?_eq_some_iff.1 hw).1
  have hadd : (c.idx + 1).toNat = c.idx.toNat + 1 := by rw [BitVec.toNat_add]; simp; omega
  rw [cursorNext, profRead_eq, hw]
  simp only [Option.map_some, cursorTick, seqDecrement, if_neg hr]
  rw [profRead_eq]
  by_cases h1 : c.rem = 1
  · have h0 : c.rem - 1 = 0 := by rw [h1]; rfl
    rw [if_pos h0]
    cases hn : p.profile[c.idx.toNat + 1]? with
    | none =>
      exact ⟨rfl, fun h => absurd h1 h, fun _ => ⟨hadd, (fun _ e => by cases e), fun _ => rfl⟩⟩
    | some w2 =>
      exact ⟨rfl, fun h => absurd h1 h, fun _ =>
        ⟨hadd, (fun _ e => by cases e; rfl), (fun e => by cases e)⟩⟩
  · have h0 : ¬ c.rem - 1 = 0 := by
      intro e
      have e := congrArg BitVec.toNat e
      rw [rem_pred_toNat hr] at e
      apply h1
      apply BitVec.eq_of_toNat_eq
      have h2 : c.rem.toNat ≠ 0 := fun e => hr (BitVec.eq_of_toNat_eq e)
      simp at e ⊢
      omega
    rw [if_neg h0]
    exact ⟨rfl, fun _ => ⟨rfl, rem_pred_toNat hr⟩, fun h => absurd h h1⟩

/-- The aux step exists as soon as the table is not empty. -/
theorem auxStep_eq_some {p : Params} (h : p.profile ≠ []) (c : Cursor) :
    ∃ w, p.profile[min c.idx.toNat (p.profile.length - 1)]? = some w ∧
      auxStep p c = some (stepOfRom w) := by
  have hl : 0 < p.profile.length := List.length_pos_of_ne_nil h
  have hk : min c.idx.toNat (p.profile.length - 1) < p.profile.length := by omega
  refine ⟨p.profile[min c.idx.toNat (p.profile.length - 1)], List.getElem?_eq_getElem hk, ?_⟩
  rw [auxStep, profRead_eq]
  unfold Params.profileLen
  rw [List.getElem?_eq_getElem hk]
  rfl

/-- There is no aux step exactly when the table is empty. -/
theorem auxStep_eq_none {p : Params} (c : Cursor) : auxStep p c = none ↔ p.profile = [] := by
  constructor
  · intro h
    by_contra hn
    obtain ⟨w, _, hw⟩ := auxStep_eq_some hn c
    rw [h] at hw
    cases hw
  · intro h
    rw [auxStep, profRead_eq, h]
    rfl

/-- The fields of SEQ_ADVANCE's response. -/
theorem seqData_fields (c : Cursor) (b : Bool) (q : ProfileStep) :
    (seqData c b q).extractLsb' 0 16 = target16 c ∧
    (seqData c b q).extractLsb' 16 8 = auxValue q ∧
    (seqData c b q).getLsbD 24 = auxValid q ∧ (seqData c b q).getLsbD 25 = b ∧
    (seqData c b q).getLsbD 26 = targetOverflow c ∧
    (seqData c b q).extractLsb' 27 37 = 0#37 := by
  have key : ∀ i, (seqData c b q).getLsbD i =
      BitVec.getLsbD (w := 37 + 1 + 1 + 1 + 8 + 16) (0#37 ++ BitVec.ofBool (targetOverflow c) ++
        BitVec.ofBool b ++ BitVec.ofBool (auxValid q) ++ auxValue q ++ target16 c) i :=
    fun _ => rfl
  refine ⟨?_, ?_, ?_, ?_, ?_, ?_⟩
  · apply BitVec.eq_of_getLsbD_eq
    intro i hi
    rw [BitVec.getLsbD_extractLsb', key]
    simp only [BitVec.getLsbD_append]
    interval_cases i <;> simp
  · apply BitVec.eq_of_getLsbD_eq
    intro i hi
    rw [BitVec.getLsbD_extractLsb', key]
    simp only [BitVec.getLsbD_append]
    interval_cases i <;> simp
  · rw [key]; simp only [BitVec.getLsbD_append]; simp
  · rw [key]; simp only [BitVec.getLsbD_append]; simp
  · rw [key]; simp only [BitVec.getLsbD_append]; simp
  · apply BitVec.eq_of_getLsbD_eq
    intro i hi
    rw [BitVec.getLsbD_extractLsb', key]
    simp only [BitVec.getLsbD_append]
    interval_cases i <;> simp

/-- Everything SEQ_ADVANCE can do when it gives a next state. -/
theorem exec_seqAdvance_next {s t : State} :
    exec .seqAdvance s = .next t ↔ ∃ w,
      s.cfg.profile[min (cursorNext s.cfg s.seq).idx.toNat (s.cfg.profile.length - 1)]? = some w ∧
      t = (let c := cursorNext s.cfg s.seq
           ((s.setSeq c).recordTargetRange (targetOverflow c)).respond .ok
             (seqData c (terminal s.cfg s.seq) (stepOfRom w)) []) := by
  simp only [exec, execSeqAdvance]
  by_cases hne : s.cfg.profile = []
  · rw [(auxStep_eq_none _).2 hne]
    simp [hne]
  · obtain ⟨w, h1, h2⟩ := auxStep_eq_some hne (cursorNext s.cfg s.seq)
    rw [h2]
    simp only [h1, Option.some.injEq, exists_eq_left', Host.Outcome.next.injEq]
    exact ⟨fun h => h.symm, fun h => h.symm⟩

/-! ### Thermocouple reader -/

/-- The reading is the masked word without its low bits. -/
theorem reading_toNat (p : Params) (raw : RawWord) :
    (reading p raw).toNat = (raw &&& p.tcMask).toNat / 2 ^ p.tcShift := by
  rw [reading, BitVec.toNat_ushiftRight, Nat.shiftRight_eq_div_pow]
  rfl

/-- The fault code of a raw word, spelled out. -/
theorem faultCode_classify (p : Params) (raw : RawWord) : faultCode (classify p raw) =
    (let m := raw &&& p.tcMask
     let v := m.toNat / 2 ^ p.tcShift
     if m = 0 then 1 else if m = p.tcMask then 2
       else if m.getLsbD p.tcOpenBit = true then 3
       else if v < p.tcMin ∨ p.tcMax < v then 4 else 0) := by
  unfold classify
  simp only [reading_toNat, maskedWord, gt_iff_lt]
  split
  · rfl
  split
  · rfl
  split
  · rfl
  split <;> rfl

/-- Code 0 is reported exactly for no fault. -/
theorem faultCode_eq_zero {k : FaultKind} : faultCode k = 0 ↔ k = .noFault := by
  cases k <;> simp [faultCode]

/-- The fields of TC_READ's response. -/
theorem tcData_fields (raw : RawWord) (c : BitVec 4) (v : BitVec 16) :
    (tcData raw c v).extractLsb' 0 16 = v ∧ (tcData raw c v).extractLsb' 16 4 = c ∧
    (tcData raw c v).extractLsb' 32 16 = raw := by
  have key : ∀ i, (tcData raw c v).getLsbD i =
      BitVec.getLsbD (w := 16 + 16 + 12 + 4 + 16) (0#16 ++ raw ++ 0#12 ++ c ++ v) i := fun _ => rfl
  refine ⟨?_, ?_, ?_⟩
  all_goals
    apply BitVec.eq_of_getLsbD_eq
    intro i hi
    rw [BitVec.getLsbD_extractLsb', key]
    simp only [BitVec.getLsbD_append]
    interval_cases i <;> simp

/-- Everything TC_READ can do when it gives a next state. -/
theorem exec_tcRead_next {d : BitVec 4} {s t : State} : exec (.tcRead d) s = .next t ↔
    ∃ c, d.toNat < s.cfg.numTc ∧ s.tc[d.toNat]? = some c ∧
      (classify s.cfg (sensorWord d s) = .noFault → c.WindowOk s.cfg) ∧
      t = tcReadNext d c s := by
  simp only [exec, execTcRead]
  cases h : tcDev s d with
  | none =>
    simp only [reduceCtorEq, false_iff]
    rintro ⟨c, h1, h2, _⟩
    exact tcDev_eq_none.1 h ⟨h1, (List.getElem?_eq_some_iff.1 h2).1⟩
  | some c =>
    obtain ⟨h1, h2⟩ := tcDev_eq_some.1 h
    simp only [h1, h2, Option.some.injEq, true_and, exists_eq_left']
    split
    · rename_i hw
      simp only [reduceCtorEq, false_iff]
      rintro ⟨h3, _⟩
      exact hw.1 (h3 hw.2)
    · rename_i hw
      simp only [Host.Outcome.next.injEq]
      constructor
      · rintro rfl
        refine ⟨fun h => ?_, rfl⟩
        by_contra hc
        exact hw ⟨hc, h⟩
      · rintro ⟨_, rfl⟩
        rfl

/-! ### READ_REG, the command word and the step -/

/-- Everything READ_REG can do when it gives a next state. -/
theorem exec_readReg_next {r : Reg} {s t : State} :
    exec (.readReg r) s = .next t ↔ ∃ v, regValue s r = some v ∧ t = s.respond .ok v [] := by
  simp only [exec, execReadReg]
  cases h : regValue s r <;> simp [eq_comm]

/-- The fields of a command word are the fields it was built from. -/
theorem cmdWord_fields (op : BitVec 8) (dev : BitVec 4) (a b : BitVec 16) :
    opField (cmdWord op dev a b) = op ∧ devField (cmdWord op dev a b) = dev ∧
    rsvField (cmdWord op dev a b) = 0 ∧ aField (cmdWord op dev a b) = a ∧
    bField (cmdWord op dev a b) = b := by
  have key : ∀ i, (cmdWord op dev a b).getLsbD i =
      BitVec.getLsbD (w := 8 + 4 + 20 + 16 + 16) (op ++ dev ++ 0#20 ++ a ++ b) i := fun _ => rfl
  refine ⟨?_, ?_, ?_, ?_, ?_⟩
  all_goals
    apply BitVec.eq_of_getLsbD_eq
    intro i hi
    simp only [opField, devField, rsvField, aField, bField]
    rw [BitVec.getLsbD_extractLsb', key]
    simp only [BitVec.getLsbD_append]
    interval_cases i <;> simp

/-- Decoding a word with `RSV` 0 is decoding its fields. -/
theorem decode_cmdWord (p : Params) (op : BitVec 8) (dev : BitVec 4) (a b : BitVec 16) :
    decode p (cmdWord op dev a b) = decodeFields p op dev a b := by
  obtain ⟨h1, h2, h3, h4, h5⟩ := cmdWord_fields op dev a b
  rw [decode, if_pos h3, h1, h2, h4, h5]

/-- Everything a step can do when it gives a next state. -/
theorem step_next_cases {s t : State} (h : step s = .next t) :
    (s.inputs = [] ∧ t = s) ∨
    (∃ w rest i, s.inputs = .command w :: rest ∧ decode s.cfg w = .instr i ∧
      exec i { s with inputs := rest } = .next t) ∨
    (∃ w rest why, s.inputs = .command w :: rest ∧ decode s.cfg w = .illegal why ∧
      t = takeIllegal w { s with inputs := rest }) ∨
    (∃ rest, s.inputs = .pwmTick :: rest ∧ t = pwmTick { s with inputs := rest }) ∨
    (∃ rest, s.inputs = .powerOnReset :: rest ∧ t = powerOnReset { s with inputs := rest }) := by
  unfold step at h
  split at h
  · split at h
    · cases h
      exact .inl ⟨‹_›, rfl⟩
    · unfold takeCommand at h
      split at h
      · exact .inr (.inl ⟨_, _, _, ‹_›, ‹_›, h⟩)
      · cases h
        exact .inr (.inr (.inl ⟨_, _, _, ‹_›, ‹_›, rfl⟩))
    · cases h
      exact .inr (.inr (.inr (.inl ⟨_, ‹_›, rfl⟩)))
    · cases h
      exact .inr (.inr (.inr (.inr ⟨_, ‹_›, rfl⟩)))
  · cases h

/-- A run's first step, when it gives a next state. -/
theorem stepsTaken_succ {s t : State} (n : Nat) (h : step s = .next t) :
    stepsTaken (n + 1) s = (s, t) :: stepsTaken n t := by
  simp only [stepsTaken, h]

/-- The ticks of a run, when its first step gives a next state. -/
theorem ticksTaken_succ {s t : State} (n : Nat) (h : step s = .next t) :
    ticksTaken (n + 1) s = (if s.ticksNext = true then [(s, t)] else []) ++ ticksTaken n t := by
  unfold ticksTaken
  rw [stepsTaken_succ n h, List.filter_cons]
  split <;> rfl

end Sys2Proof.Machine
end

