-- ==== Sys2Proof/Laws/PerInstr.lean ====
section
/-! SUPPORT. Statements about every command as syntax, one lemma per constructor. The family
`WordFields` says what the encoder puts into the two fields every command word has: the opcode
(30_encoding.md R74) and the reserved bits (30_encoding.md R71). -/

namespace Sys2Proof.Laws.WordFields

open Sys2Proof Sys2Proof.Machine

/-- The opcode of a command (30_encoding.md R74), as the table writes it. -/
def opcode : Instr → BitVec 8
  | .nop => 0x00#8
  | .pidCompute _ _ => 0x01#8
  | .pidSetGains _ _ _ => 0x02#8
  | .pidReset => 0x03#8
  | .seqAdvance => 0x10#8
  | .seqReset => 0x11#8
  | .tcRead _ => 0x20#8
  | .mix _ => 0x30#8
  | .mixManual _ _ => 0x31#8
  | .readReg _ => 0x40#8

/-- The command's word carries its opcode in bits 63:56 and zeros in bits 51:32. -/
def Statement (i : Instr) : Prop :=
  opField (encode i) = opcode i ∧ rsvField (encode i) = 0#20

theorem of_cmdWord (op : BitVec 8) (dev : BitVec 4) (a b : BitVec 16) :
    opField (cmdWord op dev a b) = op ∧ rsvField (cmdWord op dev a b) = 0#20 :=
  ⟨(cmdWord_fields op dev a b).1, (cmdWord_fields op dev a b).2.2.1⟩

theorem nop : Statement .nop := of_cmdWord _ _ _ _
theorem pidCompute (cur tgt : BitVec 16) : Statement (.pidCompute cur tgt) := of_cmdWord _ _ _ _
theorem pidSetGains (kp ki kd : BitVec 4) : Statement (.pidSetGains kp ki kd) :=
  of_cmdWord _ _ _ _
theorem pidReset : Statement .pidReset := of_cmdWord _ _ _ _
theorem seqAdvance : Statement .seqAdvance := of_cmdWord _ _ _ _
theorem seqReset : Statement .seqReset := of_cmdWord _ _ _ _
theorem tcRead (d : BitVec 4) : Statement (.tcRead d) := of_cmdWord _ _ _ _
theorem mix (c : BitVec 8) : Statement (.mix c) := of_cmdWord _ _ _ _
theorem mixManual (a b : BitVec 8) : Statement (.mixManual a b) := of_cmdWord _ _ _ _
theorem readReg (r : Reg) : Statement (.readReg r) := of_cmdWord _ _ _ _

end Sys2Proof.Laws.WordFields
end

