-- ==== Sys2Proof/Tests/Slice0.lean ====
section
/-! SUPPORT. The model's own tests: the checks of WellFormed on ill-formed terms, words written out
from the spec's encodings, one step at a time from the spec's test vectors (95_test_vectors.md), and,
for every statement with hypotheses, a state and operands that meet all of them together. -/

namespace Sys2Proof.Tests

open Sys2Proof Sys2Proof.Machine

/-! ### Configurations and states -/

/-- The table of V-SEQ-3: `[(1, 1024, aux 10), (2, 0), (1, -1024, aux 200)]`. -/
def auxTable : List RomWord := [0x10400800A#48, 0x200000000#48, 0x1FC0080C8#48]

/-- A small configuration: a ring of two samples, a window of one entry, one device, V-SEQ-3's
table. -/
def small : Params :=
  { Params.default with pidHistLen := 2, avgLog2 := 0, numTc := 1, profile := auxTable }

/-- The configuration of V-SEQ-4. -/
def hot : Params :=
  { Params.default with seqBase := 33553408#32, profile := [0x204000000#48] }

/-- A state of the small configuration in the middle of a run: V-PID-9 after call 2, V-SEQ-3 after
call 2, a faulted device, heaters on at the last phase of the period. -/
def busy : State :=
  { State.powerOn small with
    pid := { Pid.powerOn small with hist := [30#16, 31#16], hidx := 0, int := 80, flags := 0b100 }
    seq := { idx := 1, rem := 1, acc := 26624#32 }
    tc := [{ avg := [1200#16], aidx := 0, last := 20#16, fault := 1, fcode := 4 }]
    pwm := { chA := 255, chB := 254, phase := 254, outA := 1, outB := 0 } }

/-- The state with one sensor answer listed. -/
def answering (a b : BitVec 8) (s : State) : State := { s with sensors := [⟨a, b⟩] }

/-- The state with one entry scheduled. -/
def taking (x : Input) (s : State) : State := { s with inputs := [x] }

/-- What holds of the next state, and false where there is none. -/
def next? (o : Host.Outcome State Fault Refusal) (f : State → Bool) : Bool :=
  match o with
  | .next t => f t
  | _ => false

/-- The response of the next state. -/
def rsp? (o : Host.Outcome State Fault Refusal) (st : BitVec 4) (v : DataWord) : Bool :=
  next? o fun t => t.rspStatus == st && t.rspData == v

/-- An outcome that is a next state with something true of it is a next state. -/
theorem of_next? {o : Host.Outcome State Fault Refusal} {f : State → Bool} (h : next? o f = true) :
    ∃ t, o = .next t ∧ f t = true := by
  cases o with
  | next t => exact ⟨t, rfl, h⟩
  | _ => exact absurd h (by simp [next?])

/-! ### Well-formed: each check refuses an ill-formed term -/

theorem test_wf_default_legal : Params.default.Legal := by decide
theorem test_wf_small_legal : small.Legal := by decide
theorem test_wf_hot_legal : hot.Legal := by decide
theorem test_wf_tc_device : (Instr.tcRead 2).wf Params.default = false := by decide
theorem test_wf_reg_device : (Reg.tcLast 2).wf Params.default = false ∧
    (Reg.tcAidx 2).wf Params.default = false ∧ (Reg.tcFault 2).wf Params.default = false ∧
    (Reg.tcFcode 2).wf Params.default = false ∧ (Reg.tcAvg 2 0).wf Params.default = false := by decide
theorem test_wf_reg_window : (Reg.tcAvg 0 4).wf Params.default = false := by decide
theorem test_wf_reg_history : (Reg.pidHist 40).wf Params.default = false := by decide
theorem test_wf_reg_profile : (Reg.profile 2).wf Params.default = false := by decide
theorem test_wf_read_unassigned : (Instr.readReg (.profile 2)).wf Params.default = false := by decide
/-- Whether a configuration is legal. -/
def legal? (p : Params) : Bool := decide p.Legal

theorem test_wf_pid_ranges : ([{ Params.default with pidHistLen := 0 },
    { Params.default with pidHistLen := 65 },
    { Params.default with pidDshift := 16 }].any legal?) = false := by decide
theorem test_wf_seq_base : ([{ Params.default with seqBase := 33554432#32 },
    { Params.default with seqBase := -33554433#32 }].any legal?) = false := by decide
theorem test_wf_table : ([{ Params.default with profile := [] },
    { Params.default with profile := [0x000000000#48] },
    { Params.default with profile := [0x100000100#48] },
    { Params.default with profile := [0x100000001#48] },
    { Params.default with profile := List.replicate 256 0x100000000#48 }].any legal?) = false := by
  decide +kernel
theorem test_wf_tc_ranges : ([{ Params.default with numTc := 0 },
    { Params.default with numTc := 16 }, { Params.default with avgLog2 := 4 },
    { Params.default with roomTc := 8192#16 }].any legal?) = false := by decide
theorem test_wf_tc_bits : ([{ Params.default with tcOpenBit := 1 },
    { Params.default with tcShift := 2 }, { Params.default with tcMask := 0xFFF8#16 },
    { Params.default with tcMin := 1201 }, { Params.default with tcMax := 8192 },
    { Params.default with sRange := 0x1FFF#16 }].any legal?) = false := by decide

/-! ### Decoding: words written out bit by bit from 30_encoding.md R71, R72 and R74 -/

/-- OP 0x00. -/
theorem test_decode_nop : decode Params.default
    0b00000000_0000_00000000000000000000_0000000000000000_0000000000000000#64 = .instr .nop := by decide
/-- OP 0x01, A = -32768, B = 32767. -/
theorem test_decode_pid_compute : decode Params.default
    0b00000001_0000_00000000000000000000_1000000000000000_0111111111111111#64 =
      .instr (.pidCompute (-32768) 32767) := by decide
/-- OP 0x02, B = 0, kp 3, ki 0, kd 2. -/
theorem test_decode_pid_set_gains : decode Params.default
    0b00000010_0000_00000000000000000000_0000000000000000_0000_0011_0000_0010#64 =
      .instr (.pidSetGains 3 0 2) := by decide
/-- OP 0x03. -/
theorem test_decode_pid_reset : decode Params.default
    0b00000011_0000_00000000000000000000_0000000000000000_0000000000000000#64 =
      .instr .pidReset := by decide
/-- OP 0x10. -/
theorem test_decode_seq_advance : decode Params.default
    0b00010000_0000_00000000000000000000_0000000000000000_0000000000000000#64 =
      .instr .seqAdvance := by decide
/-- OP 0x11. -/
theorem test_decode_seq_reset : decode Params.default
    0b00010001_0000_00000000000000000000_0000000000000000_0000000000000000#64 =
      .instr .seqReset := by decide
/-- OP 0x20, DEV = 1. -/
theorem test_decode_tc_read : decode Params.default
    0b00100000_0001_00000000000000000000_0000000000000000_0000000000000000#64 =
      .instr (.tcRead 1) := by decide
/-- OP 0x30, B = 100. -/
theorem test_decode_mix : decode Params.default
    0b00110000_0000_00000000000000000000_0000000000000000_00000000_01100100#64 =
      .instr (.mix 100) := by decide
/-- OP 0x31, B = 200, 10. -/
theorem test_decode_mix_manual : decode Params.default
    0b00110001_0000_00000000000000000000_0000000000000000_11001000_00001010#64 =
      .instr (.mixManual 200 10) := by decide
/-- OP 0x40, A = 0x0012. -/
theorem test_decode_read_reg : decode Params.default
    0b01000000_0000_00000000000000000000_0000000000010010_0000000000000000#64 =
      .instr (.readReg .seqAcc) := by decide
/-- The register numbers of 10_state.md R42's indexed rows, at the ends of their ranges. -/
theorem test_decode_read_reg_indexed :
    decode Params.default 0x4000000002270000#64 = .instr (.readReg (.pidHist 39)) ∧
    decode Params.default 0x4000000003010000#64 = .instr (.readReg (.profile 1)) ∧
    decode Params.default 0x4000000010000000#64 = .instr (.readReg (.tcLast 0)) ∧
    decode Params.default 0x4000000010130000#64 = .instr (.readReg (.tcFcode 1)) ∧
    decode Params.default 0x4000000010170000#64 = .instr (.readReg (.tcAvg 1 3)) := by decide
/-- The ILLEGAL words of 95_test_vectors.md section 2.8. -/
theorem test_decode_illegal :
    ([0x0500000000000000#64, 0x0100000100000000#64, 0x0000000000000001#64, 0x0110000000000000#64,
      0x0200000000001000#64, 0x0200000000010000#64, 0x1000000000000001#64, 0x2020000000000000#64,
      0x20F0000000000000#64, 0x2000000000010000#64].all
        fun w => (decode Params.default w).instr? == none) = true ∧
    ([0x3000000000000100#64, 0x310000000001FFFF#64, 0x4000000000000000#64, 0x4000000000090000#64,
      0x4000000010200000#64, 0x4000000002280000#64, 0x4000000003020000#64, 0x4000000000120001#64,
      0xFFFFFFFFFFFFFFFF#64].all
        fun w => (decode Params.default w).instr? == none) = true := by
  decide
/-- The table's numbering: bit 0 is the least significant bit of the one word. -/
theorem test_decode_table_word :
    decodeTableWord 64 0x2010000000000000 = some (.tcRead 1) ∧
    decodeTableWord 64 0x4000000000000000 = none := by decide
/-- A line of text and its word (95_test_vectors.md section 1). -/
theorem test_assemble :
    assemble Params.default "PID_COMPUTE" [0, -1] = some 0x010000000000FFFF#64 ∧
    assemble Params.default "MIX" [256] = none ∧
    (Instr.pidCompute 0 (-1)).text = "PID_COMPUTE 0, -1" := by decide

/-! ### One step each, from 95_test_vectors.md -/

/-- V-NOP: response 0 / 0. -/
theorem test_nop : rsp? (step (busy.withFetchWord 64 0)) 0 0 = true := by decide +kernel

/-- V-PID-2. -/
theorem test_pid_compute : next? (exec (.pidCompute 20 100) State.reset)
    (fun t => t.rspData == 0x105 && t.pid.int == 80 && t.pid.hidx == 1 &&
      t.pid.hist[0]? == some 20) = true := by decide +kernel

/-- V-PID-9, call 3: the oldest sample is 30, the sum −2 floors to −1. -/
theorem test_pid_compute_ring :
    next? (exec (.pidCompute 32 32) { busy with pid := { busy.pid with int := 0 } })
      (fun t => t.rspData == 0x400 && t.pid.hist == [32, 31] && t.pid.hidx == 1 &&
        t.pid.lastRaw == -1) = true := by decide +kernel

/-- V-GAIN-2. -/
theorem test_pid_set_gains : next? (step (State.reset.withFetchWord 64 0x0200000000000302))
    (fun t => t.pid.kp == 3 && t.pid.ki == 0 && t.pid.kd == 2) = true := by decide +kernel

/-- V-PRST-1. -/
theorem test_pid_reset :
    next? (exec .pidReset { State.reset with
        pid := { State.reset.pid with kp := 1, int := 80, hidx := 1, lastCmd := 5, lastRaw := 5 } })
      (fun t => t.pid == { State.reset.pid with kp := 1 }) = true := by decide +kernel

/-- V-SEQ-3, call 3. -/
theorem test_seq_advance_aux : next? (exec .seqAdvance busy)
    (fun t => t.rspData == 0x1C8001A && t.seq == ⟨2, 1, 26624#32⟩) = true := by decide +kernel

/-- V-SEQ-4, call 1. -/
theorem test_seq_advance_overflow : next? (exec .seqAdvance (State.powerOn hot))
    (fun t => t.rspData == 0x4008000 && t.seq.acc == 33554432#32 && t.targetRange) = true := by
  decide +kernel

/-- `SEQ_RESET` after V-SEQ-1. -/
theorem test_seq_reset :
    next? (exec .seqReset { State.reset with seq := ⟨2, 0, 26112#32⟩ })
      (fun t => t.seq == ⟨0, 2, 25600#32⟩) = true := by decide +kernel

/-- V-TC-1 read 1, draw 0x0C80. -/
theorem test_tc_read : next? (exec (.tcRead 0) (answering 0x0C 0x80 State.reset))
    (fun t => t.rspStatus == 0 && t.rspData == 0x00000C80000000AF &&
      t.tc[0]?.map (·.avg) == some [400, 100, 100, 100] && t.events == []) = true := by
  decide +kernel

/-- V-SRC-5, draw 0x0C84 on device 1. -/
theorem test_tc_read_open : next? (exec (.tcRead 1) (answering 0x0C 0x84 State.reset))
    (fun t => t.rspStatus == 2 && t.rspData == 0x00000C8400031FFF &&
      t.tc[1]? == some ⟨[100, 100, 100, 100], 0, 100, 1, 3⟩ &&
      t.events == [.tfault 1 3 0x0C84]) = true := by decide +kernel

/-- V-MIX-ALL, row 96 column 4. -/
theorem test_mix : rsp? (exec (.mix 100) State.reset) 0 0x3296 = true := by decide +kernel

/-- V-MIX-ALL, row 160 column 10: channel b saturates and its excess goes to channel a. -/
theorem test_mix_carry : rsp? (exec (.mix 170) State.reset) 0 0x56FF = true := by decide +kernel

/-- `MIX_MANUAL 200, 10`. -/
theorem test_mix_manual : next? (exec (.mixManual 200 10) State.reset)
    (fun t => t.rspData == 0xC80A && t.pwm.chA == 200 && t.pwm.chB == 10) = true := by decide +kernel

/-- `READ_REG 0x0012` from reset. -/
theorem test_read_reg : rsp? (step (State.reset.withFetchWord 64 0x4000000000120000)) 0 0x6400 = true := by
  decide +kernel

/-- `READ_REG 0x5` after V-PID-6: a negative value is sign-extended. -/
theorem test_read_reg_signed :
    rsp? (exec (.readReg .pidLastRaw) { State.reset with pid := { State.reset.pid with lastRaw := -8 } })
      0 0xFFFFFFFFFFFFFFF8 = true := by decide +kernel

/-- V-PWM-2, tick 2: at phase 254 a duty of 254 is off and a duty of 255 is on. -/
theorem test_pwm_tick : next? (step (taking .pwmTick busy))
    (fun t => t.pwm == ⟨255, 254, 0, 1, 0⟩) = true := by decide +kernel

/-- `READ_REG` with B not 0: ILLEGAL. -/
theorem test_illegal : next? (step (State.reset.withFetchWord 64 0x4000000000120001))
    (fun t => t.rspStatus == 1 && t.rspData == 0x4000000000120001 && t.events == [.gfault 0x40]) =
      true := by decide +kernel

/-! ### Witnesses: states and operands that meet the hypotheses of each statement -/

/-- The state `busy` meets the invariant, at the ends of several ranges (`PWM_PHASE` 254, `TC_MAX`,
`TC_MIN`, `SEQ_REM` 1). Witness of StepKeepsInvariant, StepNeverStopsUnderInvariant,
SensorMayAnswerAnyWord and MeanLiesInBand. -/
theorem witness_inv : busy.Inv where
  legal := by decide
  shape := by decide
  indices := by decide
  cursor := by decide
  band := by
    intro _ t ht
    obtain rfl : t = ⟨[1200#16], 0, 20#16, 1, 4⟩ := by simpa [busy] using ht
    refine ⟨by decide, fun v hv => ?_⟩
    obtain rfl : v = 1200#16 := by simpa using hv
    decide
  readings := by
    intro t ht v hv
    obtain rfl : t = ⟨[1200#16], 0, 20#16, 1, 4⟩ := by simpa [busy] using ht
    obtain rfl : v = 1200#16 := by simpa using hv
    decide
  integral := by decide
  flags := by decide
  reports := by decide
  status := by decide

/-- PowerOnResetValues and PowerOnResetKeepsOutsideWorld. -/
theorem witness_power_on : (taking .powerOnReset busy).cfg.Legal ∧
    (taking .powerOnReset busy).inputs = .powerOnReset :: [] := by decide

/-- PowerOnMeetsInvariant, ReachableStatesMeetR44, AssemblerNeverTruncates, SeqRunFollowsProfile and
the second clause of IntegralNeverWraps: a legal configuration, and a run of it. -/
theorem witness_run : small.Legal ∧ ∃ t, core.run 2
    (taking (.command 0x0100000000140064) (State.powerOn small) : State) = .next t :=
  ⟨by decide, ⟨_, rfl⟩⟩

/-- StepKeepsInvariant: with the invariant, a next state. -/
theorem witness_step_inv : ∃ t, step busy = .next t ∧ busy.Inv := ⟨busy, by rfl, witness_inv⟩

/-- EncodeThenDecode: the last register of each indexed row. -/
theorem witness_wf : Params.default.Legal ∧
    (Instr.readReg (.tcAvg 1 3)).wf Params.default = true ∧
    (Instr.readReg (.pidHist 39)).wf Params.default = true ∧
    (Instr.readReg (.profile 1)).wf Params.default = true ∧
    (Instr.tcRead 1).wf Params.default = true := by decide

/-- DecodeThenEncode. -/
theorem witness_decodes : Params.default.Legal ∧
    decode Params.default 0x0200000000000FFF#64 = .instr (.pidSetGains 15 15 15) := by decide

/-- IllegalWordsExactly: one word for each clause, and a state with the configuration. -/
theorem witness_illegal_clauses : Params.default.Legal ∧ State.reset.cfg = Params.default ∧
    decode Params.default 0x0500000000000000#64 = .illegal .opcode ∧
    decode Params.default 0x0008000000000000#64 = .illegal .reserved ∧
    decode Params.default 0x0110000000000000#64 = .illegal .field ∧
    decode Params.default 0x0200000000010000#64 = .illegal .field ∧
    decode Params.default 0x0200000000001000#64 = .illegal .field ∧
    decode Params.default 0x3000000000000100#64 = .illegal .field ∧
    decode Params.default 0x0000000000000001#64 = .illegal .field ∧
    decode Params.default 0x2020000000000000#64 = .illegal .device ∧
    decode Params.default 0x4000000003020000#64 = .illegal .register := by decide

/-- AssemblerNeverTruncates: a line that assembles, at the ends of its ranges. -/
theorem witness_assembles : Params.default.Legal ∧
    assemble Params.default "PID_COMPUTE" [-32768, 32767] = some 0x0100000080007FFF#64 ∧
    (Instr.mixManual 255 0).wf Params.default = true := by decide

/-- StepRunsDecodedInstruction. -/
theorem witness_step_runs : (taking (.command 0x30000000000000FF) busy).cfg.Legal ∧
    (taking (.command 0x30000000000000FF) busy).inputs = .command 0x30000000000000FF :: [] ∧
    decode busy.cfg 0x30000000000000FF = .instr (.mix 255) := by decide

/-- StepOnIllegalWord. -/
theorem witness_step_illegal : (taking (.command 0x0500000000000000) busy).cfg.Legal ∧
    (taking (.command 0x0500000000000000) busy).inputs = .command 0x0500000000000000 :: [] ∧
    decode busy.cfg 0x0500000000000000 = .illegal .opcode := by decide

/-- StepTakesPwmTick, at the last phase of the period. -/
theorem witness_step_tick : (taking .pwmTick busy).cfg.Legal ∧
    (taking .pwmTick busy).inputs = .pwmTick :: [] ∧ (taking .pwmTick busy).pwm.phase = 254 := by
  decide

/-- StepRefusesIllegalConfiguration: both sides occur. -/
theorem witness_refuses : busy.cfg.Legal ∧
    ¬ (State.powerOn { small with pidHistLen := 0 }).cfg.Legal := by decide

/-- IdleStepChangesNothing and SeqResetResult. -/
theorem witness_idle : busy.cfg.Legal ∧ busy.inputs = [] := by decide

/-- WriteMap, UnitsAreIndependent and TickCommutesWithCommand: every command gives a next state. -/
theorem witness_exec_next :
    ([.nop, .pidCompute 32 32, .pidSetGains 1 2 3, .pidReset, .seqAdvance].all
      fun i => next? (exec i busy) fun _ => true) = true ∧
    ([.seqReset, .tcRead 0, .mix 1, .mixManual 1 2, .readReg .outs].all
      fun i => next? (exec i (answering 0x0C 0x84 busy)) fun _ => true) = true := by
  decide +kernel

/-- WriteMap's clauses: a terminal SEQ_ADVANCE, and a TC_READ whose status is not OK. -/
theorem witness_write_map :
    (small.profile.length ≤ (3#8).toNat ∧
      next? (exec .seqAdvance { busy with seq := ⟨3, 0, 0⟩ }) (fun _ => true) = true) ∧
    next? (exec (.tcRead 0) (answering 0x00 0x03 busy)) (fun t => t.rspStatus != 0) = true := by
  decide +kernel

/-- ProfileTableIsImmutable, GainsChangeOnlyBySetGains: a step that sets all three gains. -/
theorem witness_gains_change : (taking (.command 0x0200000000000321) busy).resetsNext = false ∧
    (taking (.command 0x0200000000000321) busy).nextInstr = some (.pidSetGains 3 2 1) ∧
    next? (step (taking (.command 0x0200000000000321) busy))
      (fun t => (t.pid.kp, t.pid.ki, t.pid.kd) != (busy.pid.kp, busy.pid.ki, busy.pid.kd)) = true := by
  decide +kernel

/-- GainsChangeOnlyBySetGains, the clause of power-on reset. -/
theorem witness_gains_reset : (taking .powerOnReset busy).resetsNext = true ∧
    next? (step (taking .powerOnReset busy)) (fun _ => true) = true := by decide +kernel

/-- CursorFrozenWhilePaused and HeatersStayOffUntilMix: a step that is none of the commands named, and
a SEQ_ADVANCE that could follow; both duties and both outputs 0. -/
theorem witness_paused :
    (let s := { taking .pwmTick busy with pwm := ⟨0, 0, 254, 0, 0⟩ }
     s.resetsNext = false ∧ s.nextInstr = none ∧ s.pwm.chA = 0 ∧ s.pwm.outA = 0 ∧ s.pwm.chB = 0 ∧
       s.pwm.outB = 0 ∧ next? (step s) (fun _ => true) = true ∧
       next? (exec .seqAdvance s) (fun _ => true) = true) := by decide +kernel

/-- TargetRangeRecordedAndNeverCleared: newly recorded, and recorded before. -/
theorem witness_target_range :
    (State.powerOn hot).targetRange = false ∧
    next? (step (taking (.command 0x1000000000000000) (State.powerOn hot)))
      (fun t => t.targetRange && t.rspData.getLsbD 26) = true ∧
    next? (step (taking .pwmTick { busy with targetRange := true })) (fun t => t.targetRange) = true := by
  decide +kernel

/-- GenericFaultExactlyOnIllegalWord. -/
theorem witness_gfault : (taking (.command 0xFFFFFFFFFFFFFFFF) busy).inputs =
      .command 0xFFFFFFFFFFFFFFFF :: [] ∧
    next? (step (taking (.command 0xFFFFFFFFFFFFFFFF) busy))
      (fun t => t.events == [.gfault 0xFF]) = true := by decide +kernel

/-- SensorFaultEventExactlyOnFaultedRead: a faulted read, and a read with code 0. -/
theorem witness_tfault :
    (taking (.command 0x2000000000000000) busy).nextInstr = some (.tcRead 0) ∧
    next? (step (taking (.command 0x2000000000000000) (answering 0xFF 0xFF busy)))
      (fun t => t.events == [.tfault 0 2 0xFFFF]) = true ∧
    next? (step (taking (.command 0x2000000000000000) (answering 0x0C 0x80 busy)))
      (fun t => t.events == []) = true := by decide +kernel

/-- Whether an outcome is IndexRange. -/
def stops? (o : Host.Outcome State Fault Refusal) : Bool :=
  match o with
  | .fault .indexRange => true
  | _ => false

/-- StopsExactlyOnIndexOutOfRange: a state for each clause. -/
theorem witness_stops :
    stops? (exec (.pidCompute 0 0) { busy with pid := { busy.pid with hidx := 2 } }) = true ∧
    stops? (exec .seqAdvance { busy with cfg := { small with profile := [] } }) = true ∧
    stops? (exec (.tcRead 1) busy) = true ∧
    stops? (exec (.tcRead 0) (answering 0x0C 0x80 { busy with tc := [⟨[], 0, 0, 0, 0⟩] })) = true ∧
    stops? (exec (.readReg (.tcLast 1)) busy) = true ∧
    stops? (exec (.readReg (.tcAvg 0 1)) busy) = true ∧
    stops? (exec (.readReg (.pidHist 2)) busy) = true ∧
    stops? (exec (.readReg (.profile 3)) busy) = true := by decide +kernel

/-- UnitsAreIndependent: two states that differ in every other unit. -/
theorem witness_units :
    (let u := { State.powerOn small with pid := busy.pid }
     busy.cfg = u.cfg ∧ busy.pid = u.pid ∧ busy.seq ≠ u.seq ∧ busy.tc ≠ u.tc ∧ busy.pwm ≠ u.pwm) ∧
    (let u := { State.powerOn small with seq := busy.seq, tc := busy.tc, pwm := busy.pwm }
     busy.cfg = u.cfg ∧ busy.seq = u.seq ∧ busy.tc = u.tc ∧ busy.sensors = u.sensors ∧
       busy.draws = u.draws ∧ busy.pwm = u.pwm ∧ busy.pid ≠ u.pid) := by decide

/-- TickCommutesWithCommand: a SEQ_ADVANCE, and a READ_REG of another register. -/
theorem witness_commutes :
    ((∀ c, Instr.seqAdvance ≠ .mix c) ∧ (∀ a b, Instr.seqAdvance ≠ .mixManual a b) ∧
      Instr.seqAdvance ≠ .readReg .pwmPhase ∧ Instr.seqAdvance ≠ .readReg .outs ∧
      next? (exec .seqAdvance busy) (fun _ => true) = true) ∧
    ((∀ c, Instr.readReg .chA ≠ .mix c) ∧ (∀ a b, Instr.readReg .chA ≠ .mixManual a b) ∧
      Instr.readReg .chA ≠ .readReg .pwmPhase ∧ Instr.readReg .chA ≠ .readReg .outs ∧
      next? (exec (.readReg .chA) busy) (fun _ => true) = true) :=
  ⟨⟨(fun _ h => by cases h), (fun _ _ h => by cases h), by decide, by decide, by decide +kernel⟩,
    ⟨(fun _ h => by cases h), (fun _ _ h => by cases h), by decide, by decide, by decide +kernel⟩⟩

/-- ReadRegReturnsTheRegister: the last register of each indexed row. -/
theorem witness_read_reg : State.reset.cfg.Legal ∧ State.reset.Shape ∧
    (Reg.tcAvg 1 3).wf State.reset.cfg = true ∧ (Reg.pidHist 39).wf State.reset.cfg = true ∧
    (Reg.profile 1).wf State.reset.cfg = true ∧ (Reg.tcFcode 1).wf State.reset.cfg = true := by decide

/-- PidComputeResult, and the first clause of IntegralNeverWraps with the integral at its bound. -/
theorem witness_pid :
    (let s := { busy with pid := { busy.pid with int := BitVec.ofInt 64 integralBound } }
     s.pid.hist.length = s.cfg.pidHistLen ∧ s.pid.hidx.toNat < s.cfg.pidHistLen ∧
       s.cfg.pidHistLen ≤ 64 ∧ s.pid.IntegralOk ∧ s.cfg.pidDshift ≤ 15 ∧
       -(2 ^ 33 + 2 ^ 23 + 2 ^ 17) ≤ s.pid.int.toInt ∧
       s.pid.int.toInt ≤ 2 ^ 33 + 2 ^ 23 + 2 ^ 17 ∧
       next? (exec (.pidCompute (-32768) 32767) s) (fun _ => true) = true) := by decide +kernel

/-- WeightedSumFits, with the integral one below the bound and every gain 15. -/
theorem witness_weighted_sum :
    (let u := { busy.pid with kp := 15, ki := 15, kd := 15, int := BitVec.ofInt 64 (2 ^ 34 - 1) };
     -(2 ^ 34) < u.int.toInt ∧ u.int.toInt < 2 ^ 34) := by decide

/-- PidProperties: zero in (V-PID-1), saturation with a positive error (V-PID-3), saturation low
(V-PID-6), and a command in range (V-PID-2). -/
theorem witness_pid_properties :
    (State.reset.pid.hist[State.reset.pid.hidx.toNat]? = some 25 ∧ State.reset.pid.int = 0 ∧
      next? (exec (.pidCompute 25 25) State.reset) (fun t => t.rspData.getLsbD 8) = true) ∧
    ((25#16).toInt < (200#16).toInt ∧
      next? (exec (.pidCompute 25 200) { State.reset with pid := { State.reset.pid with kp := 8 } })
        (fun t => t.rspData.getLsbD 9) = true) ∧
    next? (exec (.pidCompute 100 50) State.reset) (fun t => t.rspData.getLsbD 10) = true ∧
    next? (exec (.pidCompute 20 100) State.reset)
      (fun t => !t.rspData.getLsbD 9 && !t.rspData.getLsbD 10 && t.pid.lastRaw == 5) = true := by
  decide +kernel

/-- DerivativeSampleIsNCallsOld: a state after PID_RESET, and call lists just below and at the
ring's length. -/
theorem witness_derivative : busy.cfg.Legal ∧ (∃ u, exec .pidReset busy = .next u) ∧
    [((1 : BitVec 16), (2 : BitVec 16))].length < busy.cfg.pidHistLen ∧
    busy.cfg.pidHistLen ≤ [((1 : BitVec 16), (2 : BitVec 16)), (3, 4)].length :=
  ⟨by decide, ⟨_, rfl⟩, by decide, by decide⟩

/-- SeqAdvanceWithinProfile, and SeqAdvanceTerminal's second clause: a step with one tick left that is
not the last, the last step with one tick left, and a step with two left. -/
theorem witness_seq_within : small.profile.length ≤ 255 ∧
    (busy.cfg.profile[busy.seq.idx.toNat]? = some 0x200000000#48 ∧ busy.seq.rem = 1 ∧
      busy.cfg.profile[busy.seq.idx.toNat + 1]? = some 0x1FC0080C8#48) ∧
    (small.profile[(2#8).toNat]? = some 0x1FC0080C8#48 ∧ small.profile[(2#8).toNat + 1]? = none) ∧
    State.reset.cfg.profile[State.reset.seq.idx.toNat]? = some 0x201000000#48 ∧
    State.reset.seq.rem = 2 := by decide

/-- SeqAdvanceTerminal and SeqAdvanceReport (V-SEQ-3, call 5). -/
theorem witness_seq_terminal :
    (let s := { busy with seq := ⟨3, 0, 25600#32⟩ }
     s.cfg.profile ≠ [] ∧ s.seq.idx.toNat = s.cfg.profile.length ∧
       rsp? (exec .seqAdvance s) 0 0x3C80019 = true) := by decide +kernel

/-- FaultedRead: each of the four codes, the last at `TC_MAX` + 1. -/
theorem witness_faulted_read :
    (0#4).toNat < State.reset.cfg.numTc ∧
    State.reset.tc[(0#4).toNat]? = some ⟨[100, 100, 100, 100], 0, 100, 0, 0⟩ ∧
    faultCode (classify Params.default (sensorWord 0 (answering 0x00 0x03 State.reset))) = 1 ∧
    faultCode (classify Params.default (sensorWord 0 (answering 0xFF 0xFC State.reset))) = 2 ∧
    faultCode (classify Params.default (sensorWord 0 (answering 0x80 0x04 State.reset))) = 3 ∧
    faultCode (classify Params.default (sensorWord 0 (answering 0x25 0x88 State.reset))) = 4 := by
  decide

/-- GoodRead: a reading exactly at `TC_MAX`, and one exactly at `TC_MIN`. -/
theorem witness_good_read :
    (let s := answering 0x25 0x80 State.reset
     let m := sensorWord 0 s &&& s.cfg.tcMask
     s.cfg.avgLog2 ≤ 3 ∧ (0#4).toNat < s.cfg.numTc ∧
       s.tc[(0#4).toNat]? = some ⟨[100, 100, 100, 100], 0, 100, 0, 0⟩ ∧
       m ≠ 0 ∧ m ≠ s.cfg.tcMask ∧ m.getLsbD s.cfg.tcOpenBit = false ∧
       (1200#16).toNat = m.toNat / 2 ^ s.cfg.tcShift ∧ s.cfg.tcMin ≤ 1200 ∧ 1200 ≤ s.cfg.tcMax) ∧
    (let s := answering 0x00 0xA0 State.reset
     let m := sensorWord 0 s &&& s.cfg.tcMask
     m ≠ 0 ∧ m ≠ s.cfg.tcMask ∧ m.getLsbD s.cfg.tcOpenBit = false ∧
       (20#16).toNat = m.toNat / 2 ^ s.cfg.tcShift ∧ s.cfg.tcMin ≤ 20) := by decide

/-- MeanLiesInBand: the invariant, `ROOM_TC` in the band, and a read with status OK. -/
theorem witness_mean : (answering 0x25 0x80 busy).Inv ∧ InBand busy.cfg busy.cfg.roomTc ∧
    next? (exec (.tcRead 0) (answering 0x25 0x80 busy)) (fun t => t.rspStatus == 0) = true := by
  obtain ⟨a, b, c, d, e, f, g, h, i, j⟩ := witness_inv
  exact ⟨⟨a, b, c, d, e, f, g, h, i, j⟩, by decide, by decide +kernel⟩

/-- SensorMayAnswerAnyWord. -/
theorem witness_any_word : busy.Inv ∧ (0#4).toNat < busy.cfg.numTc := ⟨witness_inv, by decide⟩

/-- MixClosedForm and MixIsMonotone: commands on both sides of each bound. -/
theorem witness_mix :
    ((169#8).toNat ≤ 169 ∧ 169 < (170#8).toNat ∧ (254#8).toNat ≤ (255#8).toNat) ∧
    rsp? (exec (.mix 169) busy) 0 0x54FE = true ∧ rsp? (exec (.mix 170) busy) 0 0x56FF = true ∧
    rsp? (exec (.mix 255) busy) 0 0xFFFF = true := by decide +kernel

/-- A whole period of ticks with a NOP among them, then an ILLEGAL word. -/
def period : State := { busy with
  inputs := List.replicate 100 .pwmTick ++ .command 0 :: List.replicate 155 .pwmTick ++
    [.command 0x0500000000000000] }

/-- DutyIsTicksOnPerPeriod: from the last phase, 257 steps that take 255 ticks and two commands, the
duties 255 and 254 held throughout. -/
theorem witness_duty_run : period.pwm.phase.toNat ≤ 254 ∧ (ticksTaken 257 period).length = 255 ∧
    ((stepsTaken 257 period).all fun p => p.1.pwm.chA == 255 && p.2.pwm.chA == 255 &&
      (p.1.pwm.chB == 254 && p.2.pwm.chB == 254)) = true := by decide +kernel

/-- DutyIsTicksOnPerPeriod: two states with one phase and ordered duties. -/
theorem witness_duty :
    (let u := { busy with pwm := { busy.pwm with chB := 255 } }
     busy.pwm.phase = u.pwm.phase ∧ busy.pwm.chA.toNat ≤ u.pwm.chA.toNat ∧
       (pwmTick busy).pwm.outA = 1 ∧ busy.pwm.chB.toNat ≤ u.pwm.chB.toNat) ∧
    (let s := { busy with pwm := { busy.pwm with phase := 253 } }
     (pwmTick s).pwm.outB = 1) := by decide

/-- PseudoInstructionsExpand: a PID_COMPUTE that gives a next state, and two devices. -/
theorem witness_pseudo : State.reset.cfg.Legal ∧ 2 ≤ State.reset.cfg.numTc ∧
    next? (exec (.pidCompute 20 100) State.reset) (fun t => t.pid.lastCmd == 5) = true := by
  decide +kernel

end Sys2Proof.Tests
end

section
/-! SUPPORT. The units are independent (00_scope.md R2). For each unit one lemma about all its commands:
if such a command takes `s` to `t`, it takes every state `u` that agrees with `s` on what the unit may
read to `u` with that unit, the response and the events of `t`. -/

namespace Sys2Proof.Machine

/-! ### PID controller -/

theorem exec_pidSetGains (kp ki kd : BitVec 4) (s : State) : exec (.pidSetGains kp ki kd) s =
    .next ((s.setPid { s.pid with kp := kp, ki := ki, kd := kd }).respond .ok 0 []) := rfl

theorem exec_pidReset (s : State) : exec .pidReset s =
    .next ((s.setPid { Pid.powerOn s.cfg with
      kp := s.pid.kp, ki := s.pid.ki, kd := s.pid.kd }).respond .ok 0 []) := rfl

/-- A PID command reads the configuration and the PID unit, and writes the PID unit. -/
theorem exec_pid_of_agree {i : Instr} {s t u : State}
    (hi : (∃ a b, i = .pidCompute a b) ∨ (∃ a b c, i = .pidSetGains a b c) ∨ i = .pidReset)
    (h : exec i s = .next t) (hcfg : s.cfg = u.cfg) (hpid : s.pid = u.pid) :
    exec i u = .next { u with
      pid := t.pid, rspStatus := t.rspStatus, rspData := t.rspData, events := t.events } := by
  obtain ⟨cur, tgt, rfl⟩ | ⟨kp, ki, kd, rfl⟩ | rfl := hi
  · obtain ⟨old, hidx, hold, rfl⟩ := exec_pidCompute_next.1 h
    rw [hcfg, hpid] at hidx
    rw [hpid] at hold
    exact exec_pidCompute_next.2 ⟨old, hidx, hold, by rw [hcfg, hpid]; rfl⟩
  · rw [exec_pidSetGains] at h ⊢
    cases h
    rw [hpid]
    rfl
  · rw [exec_pidReset] at h ⊢
    cases h
    rw [hcfg, hpid]
    rfl

/-! ### Profile sequencer -/

theorem State.recordTargetRange_false (s : State) : s.recordTargetRange false = s := by
  simp [State.recordTargetRange]

theorem exec_seqReset (s : State) : exec .seqReset s =
    .next ((s.setSeq (Cursor.powerOn s.cfg)).respond .ok 0 []) := rfl

/-- A sequencer command reads the configuration and the cursor, and writes the cursor; it may record
TargetRange besides (41_sequencer.md R125). -/
theorem exec_seq_of_agree {i : Instr} {s t u : State} (hi : i = .seqAdvance ∨ i = .seqReset)
    (h : exec i s = .next t) (hcfg : s.cfg = u.cfg) (hseq : s.seq = u.seq) :
    ∃ b, exec i u = .next { u.recordTargetRange b with
      seq := t.seq, rspStatus := t.rspStatus, rspData := t.rspData, events := t.events } := by
  obtain rfl | rfl := hi
  · obtain ⟨w, hw, rfl⟩ := exec_seqAdvance_next.1 h
    rw [hcfg, hseq] at hw
    exact ⟨_, exec_seqAdvance_next.2 ⟨w, hw, by rw [hcfg, hseq]; rfl⟩⟩
  · rw [exec_seqReset] at h
    cases h
    refine ⟨false, ?_⟩
    rw [exec_seqReset, hcfg, State.recordTargetRange_false]
    rfl

/-! ### Thermocouple reader -/

/-- The next sensor word depends on the outside world's answers only. -/
theorem sensorWord_congr {s u : State} (hsens : s.sensors = u.sensors) (hdraws : s.draws = u.draws)
    (d : BitVec 4) : sensorWord d s = sensorWord d u := by
  simp only [sensorWord, sensorAnswer, hsens, hdraws]

/-- A TC_READ reads the configuration, the devices and the sensor answers, and writes the devices; it
takes one answer besides. -/
theorem exec_tcRead_of_agree {d : BitVec 4} {s t u : State} (h : exec (.tcRead d) s = .next t)
    (hcfg : s.cfg = u.cfg) (htc : s.tc = u.tc) (hsens : s.sensors = u.sensors)
    (hdraws : s.draws = u.draws) :
    exec (.tcRead d) u = .next { u.afterDraw with
      tc := t.tc, rspStatus := t.rspStatus, rspData := t.rspData, events := t.events } := by
  have hword := sensorWord_congr hsens hdraws d
  obtain ⟨c, hd, hget, hwin, rfl⟩ := exec_tcRead_next.1 h
  rw [hcfg] at hd
  rw [htc] at hget
  rw [hcfg, hword] at hwin
  refine exec_tcRead_next.2 ⟨c, hd, hget, hwin, ?_⟩
  simp only [tcReadNext, hcfg, hword, State.respond_tc, State.setTc_tc, State.afterDraw_tc, htc]
  rfl

/-! ### Mixer and PWM output stage -/

/-- A mixer command writes both duties, as its operands alone say. -/
theorem exec_mixer_writeDuties {i : Instr} (hi : (∃ c, i = .mix c) ∨ ∃ a b, i = .mixManual a b) :
    ∃ a b, ∀ s : State, exec i s = .next (s.writeDuties a b) := by
  obtain ⟨c, rfl⟩ | ⟨a, b, rfl⟩ := hi
  · exact ⟨mixA c, mixB c, fun _ => rfl⟩
  · exact ⟨a, b, fun _ => rfl⟩

/-- A mixer command reads and writes the mixer and output stage. -/
theorem exec_mixer_of_agree {i : Instr} {s t u : State}
    (hi : (∃ c, i = .mix c) ∨ ∃ a b, i = .mixManual a b)
    (h : exec i s = .next t) (hpwm : s.pwm = u.pwm) :
    exec i u = .next { u with
      pwm := t.pwm, rspStatus := t.rspStatus, rspData := t.rspData, events := t.events } := by
  obtain ⟨a, b, hduties⟩ := exec_mixer_writeDuties hi
  rw [hduties] at h ⊢
  cases h
  rw [State.writeDuties_pwm, hpwm]
  rfl

/-! ### The obligation -/

/-- Settles O26: a unit's command takes an agreeing state `u` to `u` with that unit and the response
replaced, one lemma per unit. -/
theorem unitsAreIndependent : Obligations.UnitsAreIndependent := by
  intro s u hcfg
  refine ⟨fun hpid i hi t h => ?_, fun hseq i hi t h => ?_, fun htc hsens hdraws d t h => ?_,
    fun hpwm => ⟨?_, fun i hi t h => ?_⟩⟩
  · exact ⟨_, exec_pid_of_agree hi h hcfg hpid, rfl, rfl, rfl, rfl, rfl, rfl⟩
  · obtain ⟨b, hu⟩ := exec_seq_of_agree hi h hcfg hseq
    exact ⟨_, hu, rfl, rfl, rfl, rfl, rfl, rfl⟩
  · exact ⟨_, exec_tcRead_of_agree h hcfg htc hsens hdraws, rfl, rfl, rfl, rfl, rfl, rfl⟩
  · rw [pwmTick_pwm, pwmTick_pwm, hpwm]
  · exact ⟨_, exec_mixer_of_agree hi h hpwm, rfl, rfl, rfl, rfl, rfl, rfl⟩

end Sys2Proof.Machine
end

section
/-! SUPPORT. What a step leaves unchanged: the write map (10_state.md R45), the gains (10_state.md R22);
and the registers' values at power-on reset (10_state.md R43). -/

namespace Sys2Proof.Machine

/-! ### Power-on reset -/

/-- The cursor starts with the duration of the table's first step. -/
theorem Cursor.powerOn_rem {p : Params} (h : p.ProfileOk) :
    ∃ w, p.profile[0]? = some w ∧ (Cursor.powerOn p).rem = romDur w := by
  obtain ⟨⟨hpos, -⟩, -⟩ := h
  obtain ⟨w, ws, hp⟩ := List.exists_cons_of_length_pos (l := p.profile) hpos
  exact ⟨w, by rw [hp]; rfl, by rw [Cursor.powerOn, hp]; rfl⟩

theorem step_of_powerOnReset {s : State} {rest : List Input} (hl : s.cfg.Legal)
    (hin : s.inputs = .powerOnReset :: rest) :
    step s = .next (powerOnReset { s with inputs := rest }) := by
  rw [step, if_pos hl, hin]

/-- Settles O1: the step is `powerOnReset`, whose memories are replicated initial values. -/
theorem powerOnResetValues : Obligations.PowerOnResetValues := by
  intro s rest hl hin
  have ⟨_, _, hprof, _⟩ := hl
  refine ⟨_, step_of_powerOnReset hl hin, rfl, rfl, rfl, rfl, List.length_replicate,
    fun i hi => List.getElem?_replicate_of_lt hi, rfl, rfl, rfl, rfl,
    rfl, Cursor.powerOn_rem hprof, rfl, List.length_replicate, fun d hd => ?_,
    rfl, rfl, rfl, rfl, rfl, rfl, rfl⟩
  exact ⟨TcDev.powerOn s.cfg, List.getElem?_replicate_of_lt hd, List.length_replicate,
    fun j hj => List.getElem?_replicate_of_lt hj, rfl, rfl, rfl, rfl⟩

/-! ### A thermocouple read -/

theorem tcReadNext_rspStatus (d : BitVec 4) (c : TcDev) (s : State) :
    (tcReadNext d c s).rspStatus = statusCode (tcStatus s.cfg (sensorWord d s)) := rfl

theorem tcNext_of_noFault {p : Params} {raw : RawWord} (h : classify p raw = .noFault)
    (c : TcDev) : tcNext p raw c = tcAccept p raw c := if_pos h

theorem tcNext_of_fault {p : Params} {raw : RawWord} (h : classify p raw ≠ .noFault)
    (c : TcDev) : tcNext p raw c = tcReject (classify p raw) c := if_neg h

/-- Status OK is reported exactly for a read without a fault. -/
theorem statusCode_tcStatus_eq_zero {p : Params} {raw : RawWord} :
    statusCode (tcStatus p raw) = 0 ↔ classify p raw = .noFault := by
  unfold tcStatus
  split <;> simp_all [statusCode]

/-- A read writes no window entry but the one at the window's index. -/
theorem tcNext_avg_getElem?_of_ne (p : Params) (raw : RawWord) (c : TcDev) {j : Nat}
    (hj : j ≠ c.aidx.toNat) : (tcNext p raw c).avg[j]? = c.avg[j]? := by
  by_cases hk : classify p raw = .noFault
  · rw [tcNext_of_noFault hk]
    exact List.getElem?_set_ne hj.symm
  · rw [tcNext_of_fault hk]
    rfl

/-- Every device but the one read is unchanged. -/
theorem tcReadNext_tc_getElem?_of_ne (d : BitVec 4) (c : TcDev) (s : State) {e : Nat}
    (he : e ≠ d.toNat) : (tcReadNext d c s).tc[e]? = s.tc[e]? :=
  List.getElem?_set_ne he.symm

theorem tcReadNext_tc_getElem?_self {d : BitVec 4} {c : TcDev} {s : State}
    (hc : s.tc[d.toNat]? = some c) :
    (tcReadNext d c s).tc[d.toNat]? = some (tcNext s.cfg (sensorWord d s) c) :=
  List.getElem?_set_self (List.getElem?_eq_some_iff.1 hc).1

/-! ### The write map -/

/-- No command writes the parameters or the schedule. -/
theorem exec_cfg_inputs {i : Instr} {s t : State} (h : exec i s = .next t) :
    t.cfg = s.cfg ∧ t.inputs = s.inputs := by
  cases i with
  | pidCompute cur tgt => obtain ⟨_, _, _, rfl⟩ := exec_pidCompute_next.1 h; exact ⟨rfl, rfl⟩
  | seqAdvance => obtain ⟨_, _, rfl⟩ := exec_seqAdvance_next.1 h; exact ⟨rfl, rfl⟩
  | tcRead d => obtain ⟨_, _, _, _, rfl⟩ := exec_tcRead_next.1 h; exact ⟨rfl, rfl⟩
  | readReg r => obtain ⟨_, _, rfl⟩ := exec_readReg_next.1 h; exact ⟨rfl, rfl⟩
  | nop | pidSetGains | pidReset | seqReset | mix | mixManual => cases h; exact ⟨rfl, rfl⟩

/-- Settles O17: from what each command can do, one case a command. -/
theorem writeMap : Obligations.WriteMap := by
  refine ⟨fun w s => ⟨w, _, rfl⟩, fun s => ⟨_, _, rfl, rfl, rfl⟩, fun i s t h => ?_⟩
  obtain ⟨hcfg, hin⟩ := exec_cfg_inputs h
  refine ⟨hcfg, hin, ?_⟩
  cases i with
  | nop => cases h; rfl
  | pidCompute cur tgt =>
    obtain ⟨old, -, -, rfl⟩ := exec_pidCompute_next.1 h
    exact ⟨rfl, rfl, rfl, fun j hj => List.getElem?_set_ne hj.symm, rfl, rfl, rfl, rfl, rfl, rfl⟩
  | pidSetGains kp ki kd => cases h; exact ⟨rfl, rfl, rfl, rfl, rfl, rfl, rfl⟩
  | pidReset => cases h; exact ⟨rfl, rfl, rfl, rfl, rfl, rfl, rfl, rfl, rfl⟩
  | seqAdvance =>
    obtain ⟨w, -, rfl⟩ := exec_seqAdvance_next.1 h
    exact ⟨cursorNext_of_terminal, rfl, rfl, rfl, rfl, rfl⟩
  | seqReset => cases h; exact ⟨rfl, rfl, rfl, rfl, rfl, rfl⟩
  | tcRead d =>
    obtain ⟨c, -, hc, -, rfl⟩ := exec_tcRead_next.1 h
    refine ⟨fun e he => tcReadNext_tc_getElem?_of_ne d c s he,
      ⟨c, _, hc, tcReadNext_tc_getElem?_self hc, fun j hj => tcNext_avg_getElem?_of_ne _ _ c hj⟩,
      fun hst => ⟨c, faultCode (classify s.cfg (sensorWord d s)), hc, ?_⟩, rfl, rfl, rfl, rfl⟩
    rw [tcReadNext_rspStatus] at hst
    rw [tcReadNext_tc_getElem?_self hc, tcNext_of_fault (mt statusCode_tcStatus_eq_zero.2 hst)]
    rfl
  | mix c => cases h; exact ⟨rfl, rfl, rfl, rfl, rfl, rfl, rfl⟩
  | mixManual a b => cases h; exact ⟨rfl, rfl, rfl, rfl, rfl, rfl, rfl⟩
  | readReg r =>
    obtain ⟨v, -, rfl⟩ := exec_readReg_next.1 h
    exact ⟨v, rfl⟩

/-! ### The gains -/

/-- The gains `kp`, `ki` and `kd`. -/
def Pid.gains (u : Pid) : BitVec 4 × BitVec 4 × BitVec 4 := (u.kp, u.ki, u.kd)

/-- Every command but PID_SET_GAINS keeps the gains. -/
theorem exec_gains_of_ne {i : Instr} {s t : State} (h : exec i s = .next t)
    (hi : ∀ kp ki kd, i ≠ .pidSetGains kp ki kd) : t.pid.gains = s.pid.gains := by
  cases i with
  | pidSetGains kp ki kd => exact absurd rfl (hi kp ki kd)
  | pidCompute cur tgt => obtain ⟨_, _, _, rfl⟩ := exec_pidCompute_next.1 h; rfl
  | seqAdvance => obtain ⟨_, _, rfl⟩ := exec_seqAdvance_next.1 h; rfl
  | tcRead d => obtain ⟨_, _, _, _, rfl⟩ := exec_tcRead_next.1 h; rfl
  | readReg r => obtain ⟨_, _, rfl⟩ := exec_readReg_next.1 h; rfl
  | nop | pidReset | seqReset | mix | mixManual => cases h; rfl

theorem State.nextInstr_of_command {s : State} {w : CmdWord} {rest : List Input}
    (h : s.inputs = .command w :: rest) : s.nextInstr = (decode s.cfg w).instr? := by
  rw [State.nextInstr, h]

/-- Settles O19: one case for each thing a step can do, and a command is PID_SET_GAINS or keeps the
gains. -/
theorem gainsChangeOnlyBySetGains : Obligations.GainsChangeOnlyBySetGains := by
  intro s t h
  obtain ⟨hin, rfl⟩ | ⟨w, rest, i, hin, hdec, hexec⟩ | ⟨w, rest, why, hin, hdec, rfl⟩ |
    ⟨rest, hin, rfl⟩ | ⟨rest, hin, rfl⟩ := step_next_cases h
  · simp [State.resetsNext, State.nextInstr, hin]
  · have hreset : s.resetsNext = false := by simp [State.resetsNext, hin]
    have hnext : s.nextInstr = some i := by rw [State.nextInstr_of_command hin, hdec]; rfl
    rw [hreset, hnext]
    refine ⟨nofun, fun _ hne => ?_, fun kp ki kd hi => ?_⟩
    · by_cases hset : ∃ kp ki kd, i = .pidSetGains kp ki kd
      · obtain ⟨kp, ki, kd, rfl⟩ := hset
        cases hexec
        rfl
      · push Not at hset
        exact absurd (exec_gains_of_ne hexec hset) hne
    · cases hi
      cases hexec
      exact ⟨rfl, rfl, rfl⟩
  · have hnext : s.nextInstr = none := by rw [State.nextInstr_of_command hin, hdec]; rfl
    simp [State.resetsNext, hnext, hin]
  · simp [State.resetsNext, State.nextInstr, hin]
  · simp [State.resetsNext, State.nextInstr, hin, Pid.powerOn]

end Sys2Proof.Machine
end

section
/-! SUPPORT. The invariant (10_state.md R44) holds after power-on reset, every step from a state that
meets it goes on and keeps it, so it holds along every run. The invariant is taken apart by unit, and
each unit's computation keeps its own part. -/

namespace Sys2Proof.Machine

/-! ### The invariant by unit -/

/-- What the invariant says of the PID unit. -/
structure Pid.Inv (p : Params) (u : Pid) : Prop where
  length : u.hist.length = p.pidHistLen
  hidx : u.hidx.toNat < p.pidHistLen
  integral : u.IntegralOk
  flags : u.FlagsOk

/-- What the invariant says of one thermocouple device. -/
structure TcDev.Inv (p : Params) (c : TcDev) : Prop where
  window : c.WindowOk p
  band : InBand p p.roomTc → c.BandOk p
  readings : ∀ v ∈ c.avg, v.toNat ≤ 8191
  report : c.ReportOk

/-- The invariant is a legal configuration, the response's status, and each unit's part. -/
theorem State.inv_iff {s : State} : s.Inv ↔
    s.cfg.Legal ∧ s.pid.Inv s.cfg ∧ cursorOk s.cfg s.seq = true ∧
    (s.tc.length = s.cfg.numTc ∧ ∀ c ∈ s.tc, c.Inv s.cfg) ∧
    s.pwm.phase.toNat ≤ 254 ∧ s.rspStatus.toNat ≤ 2 := by
  constructor
  · intro h
    obtain ⟨hhist, htc, havg⟩ := h.shape
    obtain ⟨hhidx, haidx, hphase⟩ := h.indices
    exact ⟨h.legal, ⟨hhist, hhidx, h.integral, h.flags⟩, h.cursor,
      ⟨htc, fun c hc => ⟨⟨havg c hc, haidx c hc⟩, fun hroom => h.band hroom c hc,
        h.readings c hc, h.reports c hc⟩⟩, hphase, h.status⟩
  · rintro ⟨hl, hpid, hseq, ⟨hlen, htc⟩, hphase, hst⟩
    exact {
      legal := hl
      shape := ⟨hpid.length, hlen, fun c hc => (htc c hc).window.1⟩
      indices := ⟨hpid.hidx, fun c hc => (htc c hc).window.2, hphase⟩
      cursor := hseq
      band := fun hroom c hc => (htc c hc).band hroom
      readings := fun c hc => (htc c hc).readings
      integral := hpid.integral
      flags := hpid.flags
      reports := fun c hc => (htc c hc).report
      status := hst }

theorem State.Inv.pidInv {s : State} (h : s.Inv) : s.pid.Inv s.cfg := (State.inv_iff.1 h).2.1

theorem State.Inv.tcInv {s : State} (h : s.Inv) {c : TcDev} (hc : c ∈ s.tc) : c.Inv s.cfg := by
  obtain ⟨-, -, -, ⟨-, htc⟩, -⟩ := State.inv_iff.1 h
  exact htc c hc

/-! ### Writing a unit keeps the invariant if the unit meets its part -/

theorem State.Inv.setPid {s : State} (h : s.Inv) {u : Pid} (hu : u.Inv s.cfg) :
    (s.setPid u).Inv := by
  obtain ⟨hl, -, hrest⟩ := State.inv_iff.1 h
  exact State.inv_iff.2 ⟨hl, hu, hrest⟩

theorem State.Inv.setSeq {s : State} (h : s.Inv) {c : Cursor} (hc : cursorOk s.cfg c = true) :
    (s.setSeq c).Inv := { h with cursor := hc }

theorem State.Inv.setTc {s : State} (h : s.Inv) (d : BitVec 4) {c : TcDev} (hc : c.Inv s.cfg) :
    (s.setTc d c).Inv := by
  obtain ⟨hl, hpid, hseq, ⟨hlen, htc⟩, hrest⟩ := State.inv_iff.1 h
  refine State.inv_iff.2 ⟨hl, hpid, hseq, ⟨List.length_set.trans hlen, fun x hx => ?_⟩, hrest⟩
  obtain hm | rfl := List.mem_or_eq_of_mem_set hx
  · exact htc x hm
  · exact hc

theorem State.Inv.setPwm {s : State} (h : s.Inv) {o : Pwm} (ho : o.phase.toNat ≤ 254) :
    (s.setPwm o).Inv := by
  obtain ⟨hl, hpid, hseq, htc, -, hst⟩ := State.inv_iff.1 h
  exact State.inv_iff.2 ⟨hl, hpid, hseq, htc, ho, hst⟩

theorem statusCode_toNat_le (st : Status) : (statusCode st).toNat ≤ 2 := by
  cases st <;> decide

theorem State.Inv.respond {s : State} (h : s.Inv) (st : Status) (v : DataWord) (e : List Event) :
    (s.respond st v e).Inv :=
  { h with status := statusCode_toNat_le st }

theorem State.Inv.recordTargetRange {s : State} (h : s.Inv) (b : Bool) :
    (s.recordTargetRange b).Inv := { h with }

theorem State.Inv.afterDraw {s : State} (h : s.Inv) : s.afterDraw.Inv := { h with }

theorem State.Inv.withInputs {s : State} (h : s.Inv) (rest : List Input) :
    ({ s with inputs := rest } : State).Inv := { h with }

/-! ### Power-on reset -/

theorem Pid.powerOn_inv {p : Params} (h : p.PidOk) : (Pid.powerOn p).Inv p where
  length := List.length_replicate
  hidx := h.1.1
  integral := (by decide : -integralBound ≤ (0#64).toInt ∧ (0#64).toInt ≤ integralBound)
  flags := (by decide : ¬ ((0#3).getLsbD 1 = true ∧ (0#3).getLsbD 2 = true))

/-- Flag 0 and code 0 report no fault. -/
theorem reportOk_noFault {avg : List (BitVec 16)} {aidx : BitVec 3} {last : BitVec 16} :
    TcDev.ReportOk ⟨avg, aidx, last, 0, 0⟩ := ⟨Nat.zero_le _, rfl⟩

theorem TcDev.powerOn_inv {p : Params} (h : p.TcOk) : (TcDev.powerOn p).Inv p := by
  obtain ⟨-, -, hroom, -⟩ := h
  exact {
    window := ⟨List.length_replicate, Nat.two_pow_pos _⟩
    band := fun hband => ⟨hband, fun v hv => List.eq_of_mem_replicate hv ▸ hband⟩
    readings := fun v hv => List.eq_of_mem_replicate hv ▸ hroom
    report := reportOk_noFault }

/-- The cursor stands on a step of the table with 1 to its duration ticks left, or at the end with
none. -/
theorem cursorOk_iff {p : Params} {c : Cursor} : cursorOk p c = true ↔
    (∃ w, p.profile[c.idx.toNat]? = some w ∧
      1 ≤ c.rem.toNat ∧ c.rem.toNat ≤ (romDur w).toNat) ∨
    (c.idx.toNat = p.profile.length ∧ c.rem.toNat = 0) := by
  rw [cursorOk, profRead_eq]
  cases hw : p.profile[c.idx.toNat]? with
  | some w =>
    have hlt := (List.getElem?_eq_some_iff.1 hw).1
    simp only [Option.map_some, Option.some.injEq, exists_eq_left', decide_eq_true_eq, stepOfRom]
    exact ⟨.inl, fun h => h.resolve_right (by omega)⟩
  | none =>
    simp only [Option.map_none, reduceCtorEq, false_and, exists_false, false_or]
    exact decide_eq_true_iff

/-- A cursor on a step of a well-formed table with that step's whole duration left. -/
theorem cursorOk_of_rem_eq {p : Params} (h : p.ProfileOk) {c : Cursor} {w : RomWord}
    (hw : p.profile[c.idx.toNat]? = some w) (hr : c.rem = romDur w) : cursorOk p c = true := by
  obtain ⟨hdur, -⟩ := romOk_of_profileOk h w (List.mem_of_getElem? hw)
  exact cursorOk_iff.2 (.inl ⟨w, hw, by rw [hr]; exact hdur, by rw [hr]⟩)

theorem cursorOk_powerOn {p : Params} (h : p.ProfileOk) : cursorOk p (Cursor.powerOn p) = true := by
  obtain ⟨w, hw, hr⟩ := Cursor.powerOn_rem h
  exact cursorOk_of_rem_eq h hw hr

theorem powerOnReset_inv {s : State} (hl : s.cfg.Legal) : (powerOnReset s).Inv := by
  have ⟨hpid, _, hprof, htc⟩ := hl
  refine State.inv_iff.2 ⟨hl, Pid.powerOn_inv hpid, cursorOk_powerOn hprof,
    ⟨List.length_replicate, fun c hc => ?_⟩, Nat.zero_le _, Nat.zero_le _⟩
  rw [List.eq_of_mem_replicate hc]
  exact TcDev.powerOn_inv htc

/-- The invariant holds right after power-on reset, whatever the schedule and the sensors: it does not
speak of them, nor of the draws and the recorded fault. -/
theorem powerOn_inv {p : Params} (hl : p.Legal) (inputs : List Input)
    (sensors : List SensorAnswer) :
    ({ State.powerOn p with inputs := inputs, sensors := sensors } : State).Inv :=
  { powerOnReset_inv (s := State.powerOn p) hl with }

/-! ### PID controller -/

theorem one_le_two_pow_gain (k : BitVec 4) : (1 : Int) ≤ 2 ^ k.toNat :=
  one_le_pow₀ (by norm_num)

theorem two_pow_gain_le (k : BitVec 4) : (2 : Int) ^ k.toNat ≤ 32768 :=
  calc (2 : Int) ^ k.toNat ≤ 2 ^ 15 := pow_le_pow_right₀ (by norm_num) (by have := k.isLt; omega)
    _ = 32768 := by norm_num

/-- The proportional and derivative terms lie within 2^31: a difference of two samples, shifted by at
most 15. -/
theorem shl_sample_bounds {v : Int} (hv : -65535 ≤ v ∧ v ≤ 65535) (k : BitVec 4) :
    -2147483648 ≤ shl v k.toNat ∧ shl v k.toNat ≤ 2147483648 := by
  have h1 := one_le_two_pow_gain k
  have h2 := two_pow_gain_le k
  rw [shl]
  constructor <;> nlinarith

theorem shl_nonneg {v : Int} (hv : 0 ≤ v) (k : BitVec 4) : 0 ≤ shl v k.toNat :=
  mul_nonneg hv (by positivity)

theorem shl_nonpos {v : Int} (hv : v ≤ 0) (k : BitVec 4) : shl v k.toNat ≤ 0 :=
  mul_nonpos_of_nonpos_of_nonneg hv (by positivity)

/-- A bound on the shifted integral is one on the integral: a shift moves away from 0. -/
theorem le_of_shl_le {v b : Int} {k : BitVec 4} (hb : 0 ≤ b) (h : shl v k.toNat ≤ b) : v ≤ b := by
  have h1 := one_le_two_pow_gain k
  rw [shl] at h
  by_contra hv
  nlinarith

theorem le_of_le_shl {v b : Int} {k : BitVec 4} (hb : b ≤ 0) (h : b ≤ shl v k.toNat) : b ≤ v := by
  have h1 := one_le_two_pow_gain k
  rw [shl] at h
  by_contra hv
  nlinarith

theorem pidSum_lt_of_pidRaw_le {p : Params} {u : Pid} {err der : Int} (hp : p.pidDshift ≤ 15)
    (h : pidRaw p u err der ≤ 255) : pidSum u err der < 8388608 := by
  have hd : (2 : Int) ^ p.pidDshift ≤ 2 ^ 15 := pow_le_pow_right₀ (by norm_num) hp
  have hlt : pidSum u err der < 256 * 2 ^ p.pidDshift :=
    (Int.ediv_lt_iff_lt_mul (by positivity)).1 (Int.lt_add_one_of_le h)
  omega

theorem pidSum_nonneg_of_pidRaw_nonneg {p : Params} {u : Pid} {err der : Int}
    (h : 0 ≤ pidRaw p u err der) : 0 ≤ pidSum u err der := by
  have := (Int.le_ediv_iff_mul_le (by positivity)).1 h
  omega

theorem pidError_bounds (cur tgt : BitVec 16) :
    -65535 ≤ pidError cur tgt ∧ pidError cur tgt ≤ 65535 := by
  have := cur.toInt_lt; have := cur.le_toInt; have := tgt.toInt_lt; have := tgt.le_toInt
  unfold pidError
  omega

theorem pidDerivative_bounds (old cur : BitVec 16) :
    -65535 ≤ pidDerivative old cur ∧ pidDerivative old cur ≤ 65535 := pidError_bounds cur old

/-- While the command is not above its range and the error raises it, the integral is small. -/
theorem int_le_of_pidRaw_le {p : Params} {u : Pid} {err der : Int} (hp : p.pidDshift ≤ 15)
    (herr : 0 ≤ err) (hder : -65535 ≤ der ∧ der ≤ 65535) (hraw : pidRaw p u err der ≤ 255) :
    u.int.toInt ≤ 2155872256 := by
  have hsum := pidSum_lt_of_pidRaw_le hp hraw
  have hprop := shl_nonneg herr u.kp
  have hderiv := shl_sample_bounds hder u.kd
  unfold pidSum at hsum
  exact le_of_shl_le (k := u.ki) (by norm_num) (by omega)

/-- While the command is not below its range and the error lowers it, the integral is not far
below 0. -/
theorem le_int_of_pidRaw_nonneg {p : Params} {u : Pid} {err der : Int} (herr : err ≤ 0)
    (hder : -65535 ≤ der ∧ der ≤ 65535) (hraw : 0 ≤ pidRaw p u err der) :
    -2147483648 ≤ u.int.toInt := by
  have hsum := pidSum_nonneg_of_pidRaw_nonneg hraw
  have hprop := shl_nonpos herr u.kp
  have hderiv := shl_sample_bounds hder u.kd
  unfold pidSum at hsum
  exact le_of_le_shl (k := u.ki) (by norm_num) (by omega)

/-- An error added to a bounded integral does not wrap. -/
theorem pidIntegral_true_toInt {u : Pid} (hu : u.IntegralOk) {err : Int}
    (herr : -65535 ≤ err ∧ err ≤ 65535) :
    (pidIntegral u err true).toInt = u.int.toInt + err := by
  obtain ⟨hlo, hhi⟩ := hu
  unfold integralBound at hlo hhi
  rw [pidIntegral, if_pos rfl, BitVec.toInt_ofInt]
  apply Int.bmod_eq_of_le <;> norm_num <;> omega

/-- The conditional integration keeps the bound of 40_pid.md R105: an error is added only while the
command is not out of its range on the side the error moves the integral to (`windupAllows_iff`), and
then the integral is far from the bound on that side. -/
theorem pidNext_integralOk {p : Params} {u : Pid} (hp : p.pidDshift ≤ 15) (hu : u.IntegralOk)
    (v : Pid) (old cur tgt : BitVec 16) : (pidNext p u v old cur tgt).IntegralOk := by
  have herr := pidError_bounds cur tgt
  have hder := pidDerivative_bounds old cur
  simp only [Pid.IntegralOk, pidNext]
  generalize pidError cur tgt = err at *
  generalize pidDerivative old cur = der at *
  cases hw : windupAllows (pidRaw p u err der) err with
  | false => exact hu
  | true =>
    rw [pidIntegral_true_toInt hu herr]
    have hallow := (windupAllows_iff _ _).1 hw
    obtain ⟨hlo, hhi⟩ := hu
    unfold integralBound at *
    obtain hneg | rfl | hpos := lt_trichotomy err 0
    · have hraw : 0 ≤ pidRaw p u err der := by omega
      have := le_int_of_pidRaw_nonneg hneg.le hder hraw
      omega
    · omega
    · have hraw : pidRaw p u err der ≤ 255 := by omega
      have := int_le_of_pidRaw_le hp hpos.le hder hraw
      omega

theorem pidNext_flagsOk (p : Params) (u v : Pid) (old cur tgt : BitVec 16) :
    (pidNext p u v old cur tgt).FlagsOk := by
  simp only [Pid.FlagsOk, pidNext]
  obtain ⟨-, hhi, hlo⟩ := pidFlags_getLsbD (pidRaw p u (pidError cur tgt) (pidDerivative old cur))
    (windupAllows (pidRaw p u (pidError cur tgt) (pidDerivative old cur)) (pidError cur tgt))
  rw [hhi, hlo, decide_eq_true_eq, decide_eq_true_eq]
  omega

theorem Pid.Inv.withGains {p : Params} {u : Pid} (h : u.Inv p) (kp ki kd : BitVec 4) :
    ({ u with kp := kp, ki := ki, kd := kd } : Pid).Inv p := { h with }

/-- The unit after a PID_COMPUTE: the ring of `v` with a sample pushed, the integral and the flags of
`pidNext`. -/
theorem pidNext_inv {p : Params} {u v : Pid} (hp : p.PidOk) (hu : u.Inv p)
    (hlen : v.hist.length = p.pidHistLen) (hidx : v.hidx.toNat < p.pidHistLen)
    (old cur tgt : BitVec 16) : (pidNext p u v old cur tgt).Inv p where
  length := hlen
  hidx := hidx
  integral := pidNext_integralOk hp.2 hu.integral v old cur tgt
  flags := pidNext_flagsOk p u v old cur tgt

/-! ### Profile sequencer -/

theorem cursorNext_ok {p : Params} {c : Cursor} (h : p.ProfileOk) (hc : cursorOk p c = true) :
    cursorOk p (cursorNext p c) = true := by
  obtain ⟨w, hw, hpos, hle⟩ | ⟨hend, -⟩ := cursorOk_iff.1 hc
  · have hrem : c.rem ≠ 0 := fun e => by simp [e] at hpos
    obtain ⟨-, hstay, hmove⟩ := cursorNext_of_running h.1.2 hw hrem
    by_cases h1 : c.rem = 1
    · obtain ⟨hidx, hsome, hnone⟩ := hmove h1
      cases hn : p.profile[c.idx.toNat + 1]? with
      | some w' => exact cursorOk_of_rem_eq h (hidx ▸ hn) (hsome w' hn)
      | none =>
        have hlt := (List.getElem?_eq_some_iff.1 hw).1
        have hge := List.getElem?_eq_none_iff.1 hn
        exact cursorOk_iff.2 (.inr ⟨by omega, by rw [hnone hn]; rfl⟩)
    · obtain ⟨hidx, hdec⟩ := hstay h1
      have : c.rem.toNat ≠ 1 := fun e => h1 (BitVec.eq_of_toNat_eq e)
      exact cursorOk_iff.2 (.inl ⟨w, hidx ▸ hw, by omega, by omega⟩)
  · rwa [cursorNext_of_terminal hend.ge]

/-! ### Thermocouple reader -/

/-- A reading that finds no fault lies in the band (42_thermocouple.md R144). -/
theorem inBand_of_classify {p : Params} {raw : RawWord} (h : classify p raw = .noFault) :
    InBand p (reading p raw) := by
  simp only [classify] at h
  split_ifs at h with _ _ _ hout
  exact ⟨by omega, by omega⟩

theorem tcAccept_inv {p : Params} {raw : RawWord} {c : TcDev} (hp : p.TcOk) (hc : c.Inv p)
    (h : classify p raw = .noFault) : (tcAccept p raw c).Inv p := by
  obtain ⟨-, hlog, -, -, -, -, ⟨-, hmax⟩, -⟩ := hp
  have hv := inBand_of_classify h
  exact {
    window := by
      refine ⟨List.length_set.trans hc.window.1, ?_⟩
      rw [tcAccept, avgPush, aidx_next_toNat hlog]
      exact Nat.mod_lt _ (Nat.two_pow_pos _)
    band := fun hroom => ⟨hv, fun v hm => (List.mem_or_eq_of_mem_set hm).elim
      ((hc.band hroom).2 v) (fun e => e ▸ hv)⟩
    readings := fun v hm => (List.mem_or_eq_of_mem_set hm).elim
      (hc.readings v) (fun e => e ▸ hv.2.trans hmax)
    report := reportOk_noFault }

theorem faultCode_toNat_le (k : FaultKind) : (faultCode k).toNat ≤ 4 := by
  cases k <;> decide

theorem tcReject_reportOk {k : FaultKind} (hk : k ≠ .noFault) (c : TcDev) :
    (tcReject k c).ReportOk := by
  refine ⟨faultCode_toNat_le k, ?_⟩
  have hcode : (tcReject k c).fcode ≠ 0 := mt faultCode_eq_zero.1 hk
  rw [decide_eq_true hcode]
  rfl

theorem tcNext_inv {p : Params} {c : TcDev} (hp : p.TcOk) (hc : c.Inv p) (raw : RawWord) :
    (tcNext p raw c).Inv p := by
  by_cases h : classify p raw = .noFault
  · rw [tcNext_of_noFault h]
    exact tcAccept_inv hp hc h
  · rw [tcNext_of_fault h]
    exact { hc with report := tcReject_reportOk h c }

/-! ### Mixer and PWM output stage -/

theorem pwmNext_phase_le (o : Pwm) : (pwmNext o).phase.toNat ≤ 254 := by
  simp only [pwmNext, pwmPeriod, BitVec.toNat_ofNat]
  omega

theorem State.Inv.writeDuties {s : State} (h : s.Inv) (a b : BitVec 8) :
    (s.writeDuties a b).Inv := by
  obtain ⟨-, -, hphase⟩ := h.indices
  exact State.Inv.respond (h.setPwm (o := { s.pwm with chA := a, chB := b }) hphase) _ _ _

theorem State.Inv.pwmTick {s : State} (h : s.Inv) : (pwmTick s).Inv :=
  { h.setPwm (pwmNext_phase_le s.pwm) with }

/-! ### Every command and every step keeps the invariant -/

theorem exec_inv {i : Instr} {s t : State} (h : s.Inv) (hexec : exec i s = .next t) : t.Inv := by
  have ⟨hpid, _, hprof, htc⟩ := h.legal
  cases i with
  | nop => cases hexec; exact h.respond _ _ _
  | pidCompute cur tgt =>
    obtain ⟨old, hidx, -, rfl⟩ := exec_pidCompute_next.1 hexec
    refine (h.setPid (pidNext_inv hpid h.pidInv ?_ ?_ old cur tgt)).respond _ _ _
    · exact List.length_set.trans h.pidInv.length
    · rw [hidx_next_toNat hpid.1.1 hpid.1.2]
      exact Nat.mod_lt _ hpid.1.1
  | pidSetGains kp ki kd =>
    cases hexec
    exact (h.setPid (h.pidInv.withGains kp ki kd)).respond _ _ _
  | pidReset =>
    cases hexec
    exact (h.setPid ((Pid.powerOn_inv hpid).withGains _ _ _)).respond _ _ _
  | seqAdvance =>
    obtain ⟨w, -, rfl⟩ := exec_seqAdvance_next.1 hexec
    exact ((h.setSeq (cursorNext_ok hprof h.cursor)).recordTargetRange _).respond _ _ _
  | seqReset =>
    cases hexec
    exact (h.setSeq (cursorOk_powerOn hprof)).respond _ _ _
  | tcRead d =>
    obtain ⟨c, -, hc, -, rfl⟩ := exec_tcRead_next.1 hexec
    have hnext := tcNext_inv htc (h.tcInv (List.mem_of_getElem? hc)) (sensorWord d s)
    exact (h.afterDraw.setTc d hnext).respond _ _ _
  | mix c => cases hexec; exact h.writeDuties _ _
  | mixManual a b => cases hexec; exact h.writeDuties a b
  | readReg r =>
    obtain ⟨v, -, rfl⟩ := exec_readReg_next.1 hexec
    exact h.respond _ _ _

theorem step_cfg {s t : State} (hstep : step s = .next t) : t.cfg = s.cfg := by
  obtain ⟨-, rfl⟩ | ⟨w, rest, i, -, -, hexec⟩ | ⟨w, rest, why, -, -, rfl⟩ | ⟨rest, -, rfl⟩ |
    ⟨rest, -, rfl⟩ := step_next_cases hstep
  · rfl
  · exact (exec_cfg_inputs hexec).1
  · rfl
  · rfl
  · rfl

theorem step_inv {s t : State} (h : s.Inv) (hstep : step s = .next t) : t.Inv := by
  obtain ⟨-, rfl⟩ | ⟨w, rest, i, -, -, hexec⟩ | ⟨w, rest, why, -, -, rfl⟩ | ⟨rest, -, rfl⟩ |
    ⟨rest, -, rfl⟩ := step_next_cases hstep
  · exact h
  · exact exec_inv (h.withInputs rest) hexec
  · exact (h.withInputs rest).respond _ _ _
  · exact (h.withInputs rest).pwmTick
  · exact powerOnReset_inv h.legal

/-! ### The decoder gives only commands that exist -/

theorem orField_wf {p : Params} {ok : Bool} {i j : Instr} (hi : i.wf p = true)
    (h : orField ok i = .instr j) : j.wf p = true := by
  cases ok with
  | true => cases h; exact hi
  | false => cases h

/-- An index stored in fewer bits is no greater. -/
theorem toNat_ofNat_lt {n w k : Nat} (h : n < k) : (BitVec.ofNat w n).toNat < k :=
  (Nat.mod_le n (2 ^ w)).trans_lt h

theorem tcRegOf_wf {p : Params} {d o : Nat} {r : Reg} (h : tcRegOf p d o = some r) :
    r.wf p = true := by
  unfold tcRegOf at h
  split_ifs at h with hd _ _ _ _ hj <;> cases h
  · exact decide_eq_true (toNat_ofNat_lt hd)
  · exact decide_eq_true (toNat_ofNat_lt hd)
  · exact decide_eq_true (toNat_ofNat_lt hd)
  · exact decide_eq_true (toNat_ofNat_lt hd)
  · exact Bool.and_eq_true_iff.2
      ⟨decide_eq_true (toNat_ofNat_lt hd), decide_eq_true (toNat_ofNat_lt hj)⟩

theorem indexedRegOf_wf {p : Params} {n : Nat} {r : Reg} (h : indexedRegOf p n = some r) :
    r.wf p = true := by
  unfold indexedRegOf at h
  split_ifs at h with hhist hprof htc
  · cases h
    exact decide_eq_true (toNat_ofNat_lt (by omega))
  · cases h
    exact decide_eq_true (toNat_ofNat_lt (by omega))
  · exact tcRegOf_wf h

theorem fixedRegs_wf (p : Params) : ∀ r ∈ fixedRegs, r.wf p = true := by
  simp [fixedRegs, Reg.wf]

theorem regOfNum_wf {p : Params} {n : BitVec 16} {r : Reg} (h : regOfNum p n = some r) :
    r.wf p = true := by
  unfold regOfNum at h
  split at h
  · cases h
    exact fixedRegs_wf p _ (List.mem_of_find?_eq_some ‹_›)
  · exact indexedRegOf_wf h

theorem decodeFields_wf {p : Params} {op : BitVec 8} {dev : BitVec 4} {a b : BitVec 16} {i : Instr}
    (h : decodeFields p op dev a b = .instr i) : i.wf p = true := by
  unfold decodeFields at h
  split_ifs at h with _ _ _ _ _ _ _ hdev
  · exact orField_wf rfl h
  · exact orField_wf rfl h
  · exact orField_wf rfl h
  · exact orField_wf rfl h
  · exact orField_wf rfl h
  · exact orField_wf rfl h
  · exact orField_wf (i := .tcRead dev) (decide_eq_true hdev) h
  · exact orField_wf rfl h
  · exact orField_wf rfl h
  · split at h
    · exact orField_wf (i := .readReg _) (regOfNum_wf ‹_›) h
    · cases h

theorem decode_wf {p : Params} {w : CmdWord} {i : Instr} (h : decode p w = .instr i) :
    i.wf p = true := by
  unfold decode at h
  split at h
  · exact decodeFields_wf h
  · cases h

/-! ### No step stops under the invariant -/

theorem memRead_of_lt {α : Type} {m : List α} {n i : Nat} (hlen : m.length = n) (hi : i < n) :
    ∃ v, memRead m n i = some v :=
  ⟨m[i], memRead_eq_some.2 ⟨hi, List.getElem?_eq_getElem _⟩⟩

theorem tcDev_of_lt {s : State} (h : s.Inv) {d : BitVec 4} (hd : d.toNat < s.cfg.numTc) :
    ∃ c, tcDev s d = some c ∧ c.Inv s.cfg := by
  obtain ⟨c, hc⟩ := memRead_of_lt h.shape.2.1 hd
  exact ⟨c, hc, h.tcInv (List.mem_of_getElem? (memRead_eq_some.1 hc).2)⟩

/-- Every register that exists has a value. -/
theorem regValue_of_wf {s : State} {r : Reg} (h : s.Inv) (hr : r.wf s.cfg = true) :
    ∃ v, regValue s r = some v := by
  cases r with
  | gains | pidInt | pidHidx | pidLastCmd | pidLastRaw | pidFlags | pidDshift | pidHistLen | seqIdx
  | seqRem | seqAcc | profileLen | chA | chB | pwmPhase | outs => exact ⟨_, rfl⟩
  | tcLast d | tcAidx d | tcFault d | tcFcode d =>
    obtain ⟨c, hc, -⟩ := tcDev_of_lt h (of_decide_eq_true hr)
    exact ⟨_, by rw [regValue, hc]; rfl⟩
  | tcAvg d j =>
    simp only [Reg.wf, Bool.and_eq_true, decide_eq_true_eq] at hr
    obtain ⟨c, hc, hinv⟩ := tcDev_of_lt h hr.1
    obtain ⟨v, hv⟩ := memRead_of_lt hinv.window.1 hr.2
    exact ⟨zext64 v, by rw [regValue, hc, Option.bind_some, hv]; rfl⟩
  | pidHist k =>
    obtain ⟨v, hv⟩ := memRead_of_lt h.pidInv.length (of_decide_eq_true hr)
    exact ⟨sext64 v, by rw [regValue, hv]; rfl⟩
  | profile k =>
    obtain ⟨v, hv⟩ := memRead_of_lt (m := s.cfg.profile) rfl (of_decide_eq_true hr)
    exact ⟨zext64 v, by rw [regValue, Params.profileLen, hv]; rfl⟩

theorem exec_next_of_inv {i : Instr} {s : State} (h : s.Inv) (hi : i.wf s.cfg = true) :
    ∃ t, exec i s = .next t := by
  cases i with
  | pidCompute cur tgt =>
    obtain ⟨old, hold⟩ := memRead_of_lt h.pidInv.length h.pidInv.hidx
    exact ⟨_, exec_pidCompute_next.2 ⟨old, h.pidInv.hidx, (memRead_eq_some.1 hold).2, rfl⟩⟩
  | seqAdvance =>
    obtain ⟨-, -, ⟨⟨hpos, -⟩, -⟩, -⟩ := h.legal
    obtain ⟨w, hw, -⟩ := auxStep_eq_some (List.length_pos_iff.1 hpos) (cursorNext s.cfg s.seq)
    exact ⟨_, exec_seqAdvance_next.2 ⟨w, hw, rfl⟩⟩
  | tcRead d =>
    obtain ⟨c, hc, hinv⟩ := tcDev_of_lt h (of_decide_eq_true hi)
    obtain ⟨hd, hget⟩ := tcDev_eq_some.1 hc
    exact ⟨_, exec_tcRead_next.2 ⟨c, hd, hget, fun _ => hinv.window, rfl⟩⟩
  | readReg r =>
    obtain ⟨v, hv⟩ := regValue_of_wf h hi
    exact ⟨_, exec_readReg_next.2 ⟨v, hv, rfl⟩⟩
  | nop | pidSetGains | pidReset | seqReset | mix | mixManual => exact ⟨_, rfl⟩

theorem takeCommand_next_of_inv {s : State} (h : s.Inv) (w : CmdWord) :
    ∃ t, takeCommand w s = .next t := by
  unfold takeCommand
  split
  · exact exec_next_of_inv h (decode_wf ‹_›)
  · exact ⟨_, rfl⟩

theorem step_next_of_inv {s : State} (h : s.Inv) : ∃ t, step s = .next t := by
  rw [step, if_pos h.legal]
  split
  · exact ⟨_, rfl⟩
  · exact takeCommand_next_of_inv (h.withInputs _) _
  · exact ⟨_, rfl⟩
  · exact ⟨_, rfl⟩

/-! ### Runs -/

theorem run_succ_of_step {s u : State} (n : Nat) (h : step s = .next u) :
    core.run (n + 1) s = core.run n u := by
  have hcore : core.step s = .next u := h
  simp only [Host.Core.run, hcore]

/-- The induction over runs: what every step from a state with `P` goes on with and keeps, every run
does. -/
theorem run_of_step {P : State → Prop} (hP : ∀ s, P s → ∃ t, step s = .next t ∧ P t) (n : Nat) :
    ∀ s, P s → ∃ t, core.run n s = .next t ∧ P t := by
  induction n with
  | zero => exact fun s hs => ⟨s, rfl, hs⟩
  | succ n ih =>
    intro s hs
    obtain ⟨u, hu, hPu⟩ := hP s hs
    obtain ⟨t, ht, hPt⟩ := ih u hPu
    exact ⟨t, (run_succ_of_step n hu).trans ht, hPt⟩

theorem run_of_inv {s : State} (h : s.Inv) (n : Nat) :
    ∃ t, core.run n s = .next t ∧ t.Inv ∧ t.cfg = s.cfg := by
  refine run_of_step (P := fun t => t.Inv ∧ t.cfg = s.cfg) (fun u hu => ?_) n s ⟨h, rfl⟩
  obtain ⟨t, ht⟩ := step_next_of_inv hu.1
  exact ⟨t, ht, step_inv hu.1 ht, (step_cfg ht).trans hu.2⟩

/-- Settles O6: the invariant holds along every run from power-on, and R44's items are parts of it. -/
theorem reachableStatesMeetR44 : Obligations.ReachableStatesMeetR44 := by
  intro p inputs sensors n hl
  obtain ⟨t, hrun, hinv, rfl⟩ := run_of_inv (powerOn_inv hl inputs sensors) n
  refine ⟨t, hrun, hinv.indices, ?_, hinv.band, ?_⟩
  · obtain ⟨w, hw, hrem⟩ | ⟨hend, hrem⟩ := cursorOk_iff.1 hinv.cursor
    · have hlt := (List.getElem?_eq_some_iff.1 hw).1
      exact ⟨hlt.le, fun _ => ⟨w, hw, hrem⟩, fun hend => absurd hend hlt.ne⟩
    · exact ⟨hend.le, fun hlt => absurd hend hlt.ne, fun _ => BitVec.eq_of_toNat_eq hrem⟩
  · have ⟨hlo, hhi⟩ := hinv.integral
    unfold integralBound at hlo hhi
    omega

end Sys2Proof.Machine
end

section
/-! SUPPORT. Which words are ILLEGAL (30_encoding.md R73) and what one does (44_system.md R182). The
register numbers of 10_state.md R42 come first: a number and the register it names determine
each other. -/

namespace Sys2Proof.Machine

/-! ### Register numbers -/

theorem fixedRegs_num_lt : ∀ r ∈ fixedRegs, r.num.toNat < 0x0200 := by decide

theorem regOfNum_num_of_mem_fixedRegs (p : Params) :
    ∀ r ∈ fixedRegs, regOfNum p r.num = some r := by
  have hfind : ∀ r ∈ fixedRegs, fixedRegs.find? (fun q => q.num == r.num) = some r := by decide
  intro r hr
  rw [regOfNum, hfind r hr]

/-- The numbers of the rows without an index end below 0x0200. -/
theorem regOfNum_of_le (p : Params) {n : BitVec 16} (hn : 0x0200 ≤ n.toNat) :
    regOfNum p n = indexedRegOf p n.toNat := by
  have hnone : fixedRegs.find? (fun r => r.num == n) = none := by
    refine List.find?_eq_none.2 fun r hr heq => ?_
    rw [← eq_of_beq heq] at hn
    exact absurd (fixedRegs_num_lt r hr) (not_lt.2 hn)
  rw [regOfNum, hnone]

theorem num_pidHist_toNat (i : BitVec 6) : (Reg.pidHist i).num.toNat = 0x0200 + i.toNat := by
  simp only [Reg.num, BitVec.toNat_ofNat]
  omega

theorem num_profile_toNat (k : BitVec 8) : (Reg.profile k).num.toNat = 0x0300 + k.toNat := by
  simp only [Reg.num, BitVec.toNat_ofNat]
  omega

theorem num_tcRow_toNat (d : BitVec 4) :
    (Reg.tcLast d).num.toNat = 0x1000 + 0x10 * d.toNat ∧
    (Reg.tcAidx d).num.toNat = 0x1000 + 0x10 * d.toNat + 1 ∧
    (Reg.tcFault d).num.toNat = 0x1000 + 0x10 * d.toNat + 2 ∧
    (Reg.tcFcode d).num.toNat = 0x1000 + 0x10 * d.toNat + 3 := by
  simp only [Reg.num, BitVec.toNat_ofNat]
  omega

theorem num_tcAvg_toNat (d : BitVec 4) (j : BitVec 3) :
    (Reg.tcAvg d j).num.toNat = 0x1000 + 0x10 * d.toNat + (j.toNat + 4) := by
  simp only [Reg.num, BitVec.toNat_ofNat]
  omega

theorem toNat_ofNat_of_lt {n w : Nat} (h : n < 2 ^ w) : (BitVec.ofNat w n).toNat = n := by
  rw [BitVec.toNat_ofNat, Nat.mod_eq_of_lt h]

theorem window_le_of_legal {p : Params} (hl : p.Legal) : p.window ≤ 8 := by
  have ⟨_, _, _, _, havg, _⟩ := hl
  exact Nat.pow_le_pow_right (n := 2) (by decide) havg

/-- A row that a thermocouple's number names has that number. -/
theorem tcRegOf_num {p : Params} (hl : p.Legal) {d o : Nat} {r : Reg} (h : tcRegOf p d o = some r) :
    r.num.toNat = 0x1000 + 0x10 * d + o := by
  have ⟨_, _, _, ⟨_, htc⟩, _⟩ := hl
  have hwin := window_le_of_legal hl
  unfold tcRegOf at h
  split_ifs at h with hd h0 h1 h2 h3 hj
  all_goals
    cases h
    have hdev : (BitVec.ofNat 4 d).toNat = d := toNat_ofNat_of_lt (by omega)
    obtain ⟨hlast, haidx, hfault, hfcode⟩ := num_tcRow_toNat (BitVec.ofNat 4 d)
  · omega
  · omega
  · omega
  · omega
  · rw [num_tcAvg_toNat, toNat_ofNat_of_lt (w := 3) (by omega)]
    omega

theorem indexedRegOf_num {p : Params} (hl : p.Legal) {n : Nat} {r : Reg}
    (h : indexedRegOf p n = some r) : r.num.toNat = n := by
  have ⟨⟨⟨_, hhist⟩, _⟩, _, ⟨⟨_, hprof⟩, _⟩, _⟩ := hl
  unfold indexedRegOf at h
  split_ifs at h
  · cases h
    rw [num_pidHist_toNat, toNat_ofNat_of_lt] <;> omega
  · cases h
    rw [num_profile_toNat, toNat_ofNat_of_lt] <;> omega
  · rw [tcRegOf_num hl h]
    omega

theorem regOfNum_num {p : Params} (hl : p.Legal) {n : BitVec 16} {r : Reg}
    (h : regOfNum p n = some r) : r.num = n := by
  unfold regOfNum at h
  split at h
  · cases h
    exact eq_of_beq (List.find?_some (p := fun q : Reg => q.num == n) ‹_›)
  · exact BitVec.eq_of_toNat_eq (indexedRegOf_num hl h)

/-- The numbers from 0x1000 on are the thermocouples' rows, sixteen a device. -/
theorem indexedRegOf_tc {p : Params} (hl : p.Legal) {d o : Nat} (ho : o < 16) :
    indexedRegOf p (0x1000 + 0x10 * d + o) = tcRegOf p d o := by
  have ⟨⟨⟨_, hhist⟩, _⟩, _, ⟨⟨_, hprof⟩, _⟩, _⟩ := hl
  have hdiv : (0x1000 + 0x10 * d + o - 0x1000) / 0x10 = d := by omega
  have hmod : (0x1000 + 0x10 * d + o - 0x1000) % 0x10 = o := by omega
  rw [indexedRegOf, if_neg (by omega), if_neg (by omega), if_pos (by omega), hdiv, hmod]

theorem regOfNum_num_of_tc {p : Params} (hl : p.Legal) {r : Reg} {d o : Nat} (ho : o < 16)
    (hr : tcRegOf p d o = some r) : regOfNum p r.num = some r := by
  have hnum := tcRegOf_num hl hr
  rw [regOfNum_of_le p (by omega), hnum, indexedRegOf_tc hl ho, hr]

theorem regOfNum_num_of_wf {p : Params} (hl : p.Legal) {r : Reg} (hr : r.wf p = true) :
    regOfNum p r.num = some r := by
  have ⟨⟨⟨_, hhist⟩, _⟩, _, ⟨⟨_, hprof⟩, _⟩, _⟩ := hl
  cases r with
  | gains | pidInt | pidHidx | pidLastCmd | pidLastRaw | pidFlags | pidDshift | pidHistLen | seqIdx
  | seqRem | seqAcc | profileLen | chA | chB | pwmPhase | outs =>
    exact regOfNum_num_of_mem_fixedRegs p _ (by decide)
  | tcLast d =>
    exact regOfNum_num_of_tc hl (d := d.toNat) (o := 0) (by decide)
      (by simp [tcRegOf, of_decide_eq_true hr])
  | tcAidx d =>
    exact regOfNum_num_of_tc hl (d := d.toNat) (o := 1) (by decide)
      (by simp [tcRegOf, of_decide_eq_true hr])
  | tcFault d =>
    exact regOfNum_num_of_tc hl (d := d.toNat) (o := 2) (by decide)
      (by simp [tcRegOf, of_decide_eq_true hr])
  | tcFcode d =>
    exact regOfNum_num_of_tc hl (d := d.toNat) (o := 3) (by decide)
      (by simp [tcRegOf, of_decide_eq_true hr])
  | tcAvg d j =>
    obtain ⟨hd, hj⟩ : d.toNat < p.numTc ∧ j.toNat < p.window := by simpa [Reg.wf] using hr
    exact regOfNum_num_of_tc hl (d := d.toNat) (o := j.toNat + 4) (by omega)
      (by simp [tcRegOf, hd, hj])
  | pidHist i =>
    have hi : i.toNat < p.pidHistLen := of_decide_eq_true hr
    rw [regOfNum_of_le p (by rw [num_pidHist_toNat]; omega), num_pidHist_toNat, indexedRegOf,
      if_pos (by omega)]
    simp
  | profile k =>
    have hk : k.toNat < p.profileLen := of_decide_eq_true hr
    rw [regOfNum_of_le p (by rw [num_profile_toNat]; omega), num_profile_toNat, indexedRegOf,
      if_neg (by omega), if_pos (by omega)]
    simp

/-- Number and register determine each other (10_state.md R42). -/
theorem regOfNum_eq_some {p : Params} (hl : p.Legal) {n : BitVec 16} {r : Reg} :
    regOfNum p n = some r ↔ r.wf p = true ∧ r.num = n := by
  constructor
  · exact fun h => ⟨regOfNum_wf h, regOfNum_num hl h⟩
  · rintro ⟨hr, rfl⟩
    exact regOfNum_num_of_wf hl hr

theorem regOfNum_eq_none {p : Params} (hl : p.Legal) {n : BitVec 16} :
    regOfNum p n = none ↔ ¬ ∃ r : Reg, r.wf p = true ∧ r.num = n := by
  simp only [← regOfNum_eq_some hl, Option.eq_none_iff_forall_ne_some, not_exists, ne_eq]

/-! ### ILLEGAL words -/

theorem exists_orField_eq_illegal {ok : Bool} {i : Instr} :
    (∃ why, orField ok i = .illegal why) ↔ ok = false := by
  cases ok <;> simp [orField]

/-- The device is tested before the fields marked 0. -/
theorem exists_decodeFields_tcRead_eq_illegal {p : Params} {dev : BitVec 4} {a b : BitVec 16} :
    (∃ why, decodeFields p opTcRead dev a b = .illegal why) ↔
      a ≠ 0 ∨ b ≠ 0 ∨ p.numTc ≤ dev.toNat := by
  have hdec : decodeFields p opTcRead dev a b =
      if dev.toNat < p.numTc then orField (a == 0 && b == 0) (.tcRead dev)
      else .illegal .device := rfl
  rw [hdec]
  split
  · next hd => simp [exists_orField_eq_illegal, imp_iff_not_or, hd.not_ge]
  · next hd => exact iff_of_true ⟨_, rfl⟩ (.inr (.inr (not_lt.1 hd)))

/-- The register is looked up before the fields marked 0. -/
theorem exists_decodeFields_readReg_eq_illegal {p : Params} {dev : BitVec 4} {a b : BitVec 16} :
    (∃ why, decodeFields p opReadReg dev a b = .illegal why) ↔
      dev ≠ 0 ∨ b ≠ 0 ∨ regOfNum p a = none := by
  cases hreg : regOfNum p a with
  | some r =>
    have hdec : decodeFields p opReadReg dev a b = orField (dev == 0 && b == 0) (.readReg r) := by
      rw [decodeFields, hreg]
      rfl
    simp [hdec, exists_orField_eq_illegal, imp_iff_not_or]
  | none =>
    refine iff_of_true ⟨.register, ?_⟩ (.inr (.inr rfl))
    rw [decodeFields, hreg]
    rfl

/-- TC_READ and READ_REG name a thing that has to exist; the other commands have fields only. -/
theorem opcode_cases (op : BitVec 8) :
    op = opTcRead ∨ op = opReadReg ∨
    op ∈ ([0x00, 0x01, 0x02, 0x03, 0x10, 0x11, 0x30, 0x31] : List (BitVec 8)) ∨
    op ∉ ([0x00, 0x01, 0x02, 0x03, 0x10, 0x11, 0x20, 0x30, 0x31, 0x40] : List (BitVec 8)) := by
  simp only [opTcRead, opReadReg, List.mem_cons, List.not_mem_nil, or_false]
  grind

/-- A word's fields do not make a command, `RSV` already found 0: the conditions of 30_encoding.md
R73 but the one on `RSV`. -/
theorem exists_decodeFields_eq_illegal {p : Params} (hl : p.Legal) (op : BitVec 8) (dev : BitVec 4)
    (a b : BitVec 16) :
    (∃ why, decodeFields p op dev a b = .illegal why) ↔
      (op ∉ ([0x00, 0x01, 0x02, 0x03, 0x10, 0x11, 0x20, 0x30, 0x31, 0x40] : List (BitVec 8)) ∨
        (op ≠ 0x20#8 ∧ dev ≠ 0#4) ∨
        (op ≠ 0x01#8 ∧ op ≠ 0x40#8 ∧ a ≠ 0#16) ∨
        (op = 0x02#8 ∧ b.extractLsb' 12 4 ≠ 0#4) ∨
        (op = 0x30#8 ∧ b.extractLsb' 8 8 ≠ 0#8) ∨
        (op ∈ ([0x00, 0x03, 0x10, 0x11, 0x20, 0x40] : List (BitVec 8)) ∧ b ≠ 0#16) ∨
        (op = 0x20#8 ∧ p.numTc ≤ dev.toNat) ∨
        (op = 0x40#8 ∧ ¬ ∃ r : Reg, r.wf p = true ∧ r.num = a)) := by
  rw [← regOfNum_eq_none hl]
  obtain rfl | rfl | hop | hop := opcode_cases op
  · rw [exists_decodeFields_tcRead_eq_illegal]
    simp [opTcRead]
  · rw [exists_decodeFields_readReg_eq_illegal]
    simp [opReadReg]
  · fin_cases hop
    all_goals
      simp [decodeFields, exists_orField_eq_illegal, imp_iff_not_or, or_assoc, opNop, opPidCompute,
        opPidSetGains, opPidReset, opSeqAdvance, opSeqReset, opTcRead, opMix, opMixManual]
  · refine iff_of_true ⟨.opcode, ?_⟩ (.inl hop)
    simp only [List.mem_cons, List.not_mem_nil, or_false, not_or, BitVec.ofNat_eq_ofNat] at hop
    simp [decodeFields, hop, opNop, opPidCompute, opPidSetGains, opPidReset, opSeqAdvance,
      opSeqReset, opTcRead, opMix, opMixManual, opReadReg]

/-- A word is ILLEGAL when `RSV` is not 0 or its fields make no command. -/
theorem exists_decode_eq_illegal {p : Params} {w : CmdWord} :
    (∃ why, decode p w = .illegal why) ↔ rsvField w ≠ 0 ∨
      ∃ why, decodeFields p (opField w) (devField w) (aField w) (bField w) = .illegal why := by
  unfold decode
  split
  · next hrsv => simp [hrsv]
  · next hrsv => exact iff_of_true ⟨_, rfl⟩ (.inl hrsv)

theorem takeCommand_of_illegal {s : State} {w : CmdWord} {why : IllegalWord}
    (h : decode s.cfg w = .illegal why) : takeCommand w s = .next (takeIllegal w s) := by
  rw [takeCommand, h]

/-- Settles O9: `RSV` first, then the fields by opcode; a field within `B` is a field of the word. -/
theorem illegalWordsExactly : Obligations.IllegalWordsExactly := by
  intro p w hl
  constructor
  · have hgains : (bField w).extractLsb' 12 4 = w.extractLsb' 12 4 :=
      BitVec.extractLsb'_extractLsb'_of_le (by decide)
    have hmix : (bField w).extractLsb' 8 8 = w.extractLsb' 8 8 :=
      BitVec.extractLsb'_extractLsb'_of_le (by decide)
    rw [exists_decode_eq_illegal, exists_decodeFields_eq_illegal hl, hgains, hmix]
    exact or_left_comm
  · rintro s rfl ⟨why, h⟩
    exact takeCommand_of_illegal h

end Sys2Proof.Machine
end

section
/-! SUPPORT. The PID commands (40_pid.md R100 to R109): their words, the sizes of PID_COMPUTE's terms,
and the registers and the response of a PID_COMPUTE, said once and cited by each statement. -/

namespace Sys2Proof.Machine

/-! ### The command words, PID_SET_GAINS and PID_RESET -/

theorem decode_cmdWord_pidCompute (p : Params) (cur tgt : BitVec 16) :
    decode p (cmdWord opPidCompute 0 cur tgt) = .instr (.pidCompute cur tgt) := by
  rw [decode_cmdWord]
  rfl

theorem extractLsb'_append_nibble {n : Nat} (u : BitVec n) (v : BitVec 4) (k : Nat) :
    (u ++ v).extractLsb' (k + 4) 4 = u.extractLsb' k 4 :=
  BitVec.extractLsb'_append_eq_of_le (Nat.le_add_left 4 k)

/-- Four fields of four bits are read back from the half-word they make. -/
theorem extractLsb'_four_nibbles (w x y z : BitVec 4) :
    (w ++ x ++ y ++ z : BitVec 16).extractLsb' 12 4 = w ∧
    (w ++ x ++ y ++ z : BitVec 16).extractLsb' 8 4 = x ∧
    (w ++ x ++ y ++ z : BitVec 16).extractLsb' 4 4 = y ∧
    (w ++ x ++ y ++ z : BitVec 16).extractLsb' 0 4 = z := by
  have hz (k : Nat) : (w ++ x ++ y ++ z : BitVec 16).extractLsb' (k + 4) 4 =
      (w ++ x ++ y).extractLsb' k 4 := extractLsb'_append_nibble _ z k
  have hy (k : Nat) : (w ++ x ++ y).extractLsb' (k + 4) 4 = (w ++ x).extractLsb' k 4 :=
    extractLsb'_append_nibble _ y k
  refine ⟨?_, ?_, ?_, BitVec.extractLsb'_append_eq_right⟩
  · exact (hz 8).trans ((hy 4).trans BitVec.extractLsb'_append_eq_left)
  · exact (hz 4).trans ((hy 0).trans BitVec.extractLsb'_append_eq_right)
  · exact (hz 0).trans BitVec.extractLsb'_append_eq_right

theorem decode_cmdWord_pidSetGains (p : Params) (kp ki kd : BitVec 4) :
    decode p (cmdWord opPidSetGains 0 0 (0#4 ++ kp ++ ki ++ kd)) =
      .instr (.pidSetGains kp ki kd) := by
  obtain ⟨hzero, hkp, hki, hkd⟩ := extractLsb'_four_nibbles 0#4 kp ki kd
  rw [decode_cmdWord]
  simp [decodeFields, opNop, opPidCompute, opPidSetGains, orField, hzero, hkp, hki, hkd]

/-- A word is the same whether its last field is appended whole or in four parts. -/
theorem cmdWord_append (op : BitVec 8) (dev : BitVec 4) (a : BitVec 16) (w x y z : BitVec 4) :
    cmdWord op dev a (w ++ x ++ y ++ z) = op ++ dev ++ 0#20 ++ a ++ w ++ x ++ y ++ z := by
  apply BitVec.eq_of_toNat_eq
  simp only [cmdWord, BitVec.toNat_append, Nat.shiftLeft_or_distrib, Nat.or_assoc,
    ← Nat.shiftLeft_add]

/-- Settles O35: the word is the encoder's, and the meaning is one write of the unit. -/
theorem pidSetGainsResult : Obligations.PidSetGainsResult := by
  intro s kp ki kd
  refine ⟨?_, exec_pidSetGains kp ki kd s⟩
  rw [← decode_cmdWord_pidSetGains s.cfg, cmdWord_append]
  rfl

/-- Settles O36: the unit written is the power-on unit with the gains of the unit before it. -/
theorem pidResetResult : Obligations.PidResetResult := by
  intro s
  refine ⟨?_, _, exec_pidReset s, List.length_replicate,
    fun i hi => List.getElem?_replicate_of_lt hi, rfl, rfl, rfl, rfl, rfl, rfl, rfl, rfl, rfl, rfl,
    rfl⟩
  exact decode_cmdWord s.cfg 0x03 0 0 0

/-! ### The sizes of the terms -/

/-- A proportional or derivative term is below 2^32. -/
theorem abs_shl_sample_lt {v : Int} (hv : -65535 ≤ v ∧ v ≤ 65535) (k : BitVec 4) :
    |shl v k.toNat| < 2 ^ 32 := by
  obtain ⟨hlo, hhi⟩ := shl_sample_bounds hv k
  rw [abs_lt]
  omega

/-- A shift by a gain exponent multiplies the size by at most 2^15. -/
theorem abs_shl_lt {v : Int} (hv : |v| < 2 ^ 34) (k : BitVec 4) : |shl v k.toNat| < 2 ^ 49 :=
  calc
    |shl v k.toNat| = |v| * 2 ^ k.toNat := by rw [shl, abs_mul, abs_pow, Nat.abs_ofNat]
    _ ≤ |v| * 32768 := mul_le_mul_of_nonneg_left (two_pow_gain_le k) (abs_nonneg v)
    _ < 2 ^ 49 := by omega

/-- The weighted sum is below 2^50: each of its terms is below 2^49. -/
theorem abs_pidSum_lt {u : Pid} (hu : |u.int.toInt| < 2 ^ 34) {err der : Int}
    (herr : -65535 ≤ err ∧ err ≤ 65535) (hder : -65535 ≤ der ∧ der ≤ 65535) :
    |pidSum u err der| < 2 ^ 50 := by
  have hprop := abs_shl_sample_lt herr u.kp
  have hint := abs_shl_lt hu u.ki
  have hderiv := abs_shl_sample_lt hder u.kd
  rw [abs_lt] at hprop hint hderiv
  rw [pidSum, abs_lt]
  omega

/-- A shift right does not enlarge the weighted sum. -/
theorem abs_pidRaw_lt {u : Pid} (hu : |u.int.toInt| < 2 ^ 34) {err der : Int}
    (herr : -65535 ≤ err ∧ err ≤ 65535) (hder : -65535 ≤ der ∧ der ≤ 65535) (p : Params) :
    |pidRaw p u err der| < 2 ^ 50 :=
  lt_of_le_of_lt (Int.abs_ediv_le_abs _ _) (abs_pidSum_lt hu herr hder)

theorem pidLastRaw_toInt_of_abs_lt {raw : Int} (h : |raw| < 2 ^ 50) :
    (pidLastRaw raw).toInt = raw := by
  rw [abs_lt] at h
  exact pidLastRaw_toInt (by omega)

/-- Settles O32: one lemma for each term; the error and the derivative are differences of samples. -/
theorem weightedSumFits : Obligations.WeightedSumFits := by
  intro p u cur tgt old hlo hhi
  have hu : |u.int.toInt| < 2 ^ 34 := abs_lt.2 ⟨hlo, hhi⟩
  have herr := pidError_bounds cur tgt
  have hder := pidDerivative_bounds old cur
  have hraw := abs_pidRaw_lt hu herr hder p
  exact ⟨abs_shl_sample_lt herr u.kp, abs_shl_sample_lt hder u.kd, abs_shl_lt hu u.ki,
    abs_pidSum_lt hu herr hder, hraw, pidLastRaw_toInt_of_abs_lt hraw⟩

/-! ### The integral -/

theorem Pid.integralOk_iff {u : Pid} : u.IntegralOk ↔
    -(2 ^ 33 + 2 ^ 23 + 2 ^ 17) ≤ u.int.toInt ∧ u.int.toInt ≤ 2 ^ 33 + 2 ^ 23 + 2 ^ 17 := by
  norm_num [Pid.IntegralOk, integralBound]

theorem Pid.IntegralOk.abs_int_lt {u : Pid} (h : u.IntegralOk) : |u.int.toInt| < 2 ^ 34 := by
  obtain ⟨hlo, hhi⟩ := Pid.integralOk_iff.1 h
  rw [abs_lt]
  omega

/-- The conditional integration adds the error or nothing, with no wrap. -/
theorem pidIntegral_toInt {u : Pid} (hu : u.IntegralOk) {err : Int}
    (herr : -65535 ≤ err ∧ err ≤ 65535) (integ : Bool) :
    (pidIntegral u err integ).toInt = u.int.toInt + if integ = true then err else 0 := by
  cases integ with
  | true => exact pidIntegral_true_toInt hu herr
  | false => exact (add_zero _).symm

/-! ### A PID_COMPUTE -/

/-- The unclamped command is the floor of the weighted sum of 40_pid.md R100, written out. -/
theorem pidRaw_eq_fdiv (p : Params) (u : Pid) (cur tgt old : BitVec 16) :
    pidRaw p u (pidError cur tgt) (pidDerivative old cur) =
      Int.fdiv ((tgt.toInt - cur.toInt) * 2 ^ u.kp.toNat + u.int.toInt * 2 ^ u.ki.toNat +
        (old.toInt - cur.toInt) * 2 ^ u.kd.toNat) (2 ^ p.pidDshift) :=
  asr_eq_fdiv _ _

/-- The registers and the response after a PID_COMPUTE from `s` to `t`, whose oldest sample is `old`
and whose unclamped command is `raw` (40_pid.md R100). -/
structure PidComputed (s t : State) (cur tgt old : BitVec 16) (raw : Int) : Prop where
  oldest : s.pid.hist[s.pid.hidx.toNat]? = some old
  raw_eq : raw = pidRaw s.cfg s.pid (pidError cur tgt) (pidDerivative old cur)
  int : t.pid.int = pidIntegral s.pid (pidError cur tgt) (windupAllows raw (pidError cur tgt))
  lastCmd : t.pid.lastCmd = pidOut raw
  lastRaw : t.pid.lastRaw = pidLastRaw raw
  flags : t.pid.flags = pidFlags raw (windupAllows raw (pidError cur tgt))
  hist : t.pid.hist = s.pid.hist.set s.pid.hidx.toNat cur
  hidx : t.pid.hidx = BitVec.ofNat 6 ((s.pid.hidx.toNat + 1) % s.cfg.pidHistLen)
  rspStatus : t.rspStatus = 0
  rspData : t.rspData = pidData t.pid.flags t.pid.lastCmd
  events : t.events = []

theorem pidComputed_of_exec {s t : State} {cur tgt : BitVec 16}
    (h : exec (.pidCompute cur tgt) s = .next t) : ∃ old raw, PidComputed s t cur tgt old raw := by
  obtain ⟨old, -, hold, rfl⟩ := exec_pidCompute_next.1 h
  exact ⟨old, _, hold, rfl, rfl, rfl, rfl, rfl, rfl, rfl, rfl, rfl, rfl⟩

theorem PidComputed.integralOk {s t : State} {cur tgt old : BitVec 16} {raw : Int}
    (h : PidComputed s t cur tgt old raw) (hp : s.cfg.pidDshift ≤ 15) (hs : s.pid.IntegralOk) :
    t.pid.IntegralOk := by
  have hnext := pidNext_integralOk hp hs s.pid old cur tgt
  obtain rfl := h.raw_eq
  rwa [Pid.IntegralOk, h.int]

/-- Settles O31: a PID_COMPUTE keeps the bound, the sum does not wrap within it, and every reached
state meets the invariant, which holds the bound. -/
theorem integralNeverWraps : Obligations.IntegralNeverWraps := by
  constructor
  · intro s t cur tgt hp hlo hhi h
    have hs : s.pid.IntegralOk := Pid.integralOk_iff.2 ⟨hlo, hhi⟩
    obtain ⟨old, raw, hc⟩ := pidComputed_of_exec h
    obtain ⟨htlo, hthi⟩ := Pid.integralOk_iff.1 (hc.integralOk hp hs)
    refine ⟨htlo, hthi, ?_⟩
    rw [hc.int, pidIntegral_toInt hs (pidError_bounds cur tgt)]
    split
    · exact .inl rfl
    · exact .inr (add_zero _)
  · intro p inputs sensors n t hl hrun
    obtain ⟨t', hrun', hinv, -⟩ := run_of_inv (powerOn_inv hl inputs sensors) n
    cases hrun.symm.trans hrun'
    exact abs_lt.1 hinv.integral.abs_int_lt

/-- The response packs the flags above the power. -/
theorem pidData_toNat (f : BitVec 3) (o : BitVec 8) :
    (pidData f o).toNat = o.toNat + 256 * f.toNat := by
  have hflags : (0#53 ++ f).toNat = f.toNat := by rw [BitVec.toNat_append]; simp
  have hdata : (pidData f o).toNat = f.toNat <<< 8 + o.toNat := by
    rw [Nat.shiftLeft_add_eq_or_of_lt o.isLt, ← hflags]
    exact BitVec.toNat_append _ o
  rw [hdata, Nat.shiftLeft_eq]
  omega

/-- Settles O30: the call completes, and each item is one field of `PidComputed`. -/
theorem pidComputeResult : Obligations.PidComputeResult := by
  intro s cur tgt hlen hidx h64 hs
  obtain ⟨old, hold⟩ := memRead_of_lt hlen hidx
  obtain ⟨t, h⟩ : ∃ t, exec (.pidCompute cur tgt) s = .next t :=
    ⟨_, exec_pidCompute_next.2 ⟨old, hidx, (memRead_eq_some.1 hold).2, rfl⟩⟩
  obtain ⟨old, raw, hc⟩ := pidComputed_of_exec h
  have herr := pidError_bounds cur tgt
  have hraw : |raw| < 2 ^ 50 :=
    hc.raw_eq ▸ abs_pidRaw_lt hs.abs_int_lt herr (pidDerivative_bounds old cur) s.cfg
  obtain ⟨hinteg, hsatHi, hsatLo⟩ := pidFlags_getLsbD raw (windupAllows raw (pidError cur tgt))
  refine ⟨decode_cmdWord_pidCompute s.cfg cur tgt, t, old, pidError cur tgt, pidDerivative old cur,
    raw, windupAllows raw (pidError cur tgt), h, hc.oldest, rfl, rfl,
    hc.raw_eq.trans (pidRaw_eq_fdiv ..), windupAllows_iff .., ?_, ?_, ?_, ?_, ?_, ?_, hc.hist, ?_,
    hc.rspStatus, ?_, hc.events⟩
  · rw [hc.int, pidIntegral_toInt hs herr]
  · rw [hc.lastCmd, pidOut_toNat]
  · rw [hc.lastRaw, pidLastRaw_toInt_of_abs_lt hraw]
  · rw [hc.flags, hinteg]
  · rw [hc.flags, hsatHi, decide_eq_true_iff]
  · rw [hc.flags, hsatLo, decide_eq_true_iff]
  · rw [hc.hidx, hidx_next_toNat (by omega) h64]
  · rw [hc.rspData, pidData_toNat]

theorem pidRaw_zero {p : Params} {u : Pid} (hu : u.int = 0) : pidRaw p u 0 0 = 0 := by
  simp [pidRaw, pidSum, shl, asr, hu]

/-- The fields of the response of a PID_COMPUTE, by the unclamped command. -/
theorem PidComputed.response {s t : State} {cur tgt old : BitVec 16} {raw : Int}
    (h : PidComputed s t cur tgt old raw) :
    t.rspData.extractLsb' 0 8 = t.pid.lastCmd ∧
    t.rspData.getLsbD 8 = windupAllows raw (pidError cur tgt) ∧
    (t.rspData.getLsbD 9 = true ↔ 255 < raw) ∧ (t.rspData.getLsbD 10 = true ↔ raw < 0) := by
  obtain ⟨hinteg, hsatHi, hsatLo⟩ := pidFlags_getLsbD raw (windupAllows raw (pidError cur tgt))
  obtain ⟨hpower, h8, h9, h10⟩ := pidData_fields t.pid.flags t.pid.lastCmd
  rw [h.rspData, hpower, h8, h9, h10, h.flags, hinteg, hsatHi, hsatLo]
  simp

/-- With error, derivative and integral 0 the unclamped command is 0. -/
theorem PidComputed.raw_eq_zero {s t : State} {cur old : BitVec 16} {raw : Int}
    (h : PidComputed s t cur cur old raw) (hold : s.pid.hist[s.pid.hidx.toNat]? = some cur)
    (hint : s.pid.int = 0) : raw = 0 := by
  cases Option.some.inj (h.oldest.symm.trans hold)
  rw [h.raw_eq, pidError, pidDerivative, sub_self, pidRaw_zero hint]

/-- Settles O33: each property is read off the unclamped command. -/
theorem pidProperties : Obligations.PidProperties := by
  intro s t cur tgt h
  obtain ⟨old, raw, hc⟩ := pidComputed_of_exec h
  obtain ⟨hpower, hinteg, hsatHi, hsatLo⟩ := hc.response
  have hclamp : (t.pid.lastCmd.toNat : Int) = max 0 (min raw 255) := by
    rw [hc.lastCmd, pidOut_toNat]
  refine ⟨fun htgt hold hint => ?_, ⟨hpower, ⟨old, raw, hc.oldest,
    hc.raw_eq.trans (pidRaw_eq_fdiv ..), hclamp, hsatHi, hsatLo⟩, fun h9 => ?_, fun h10 => ?_,
    fun h9 h10 => ?_⟩, fun h9 hpos => ?_⟩
  · subst htgt
    obtain rfl := hc.raw_eq_zero hold hint
    have herr : pidError tgt tgt = 0 := sub_self _
    rw [hpower, hinteg, hc.lastCmd, hc.int, herr, pidIntegral, hint]
    decide
  · have hraw := hsatHi.1 h9
    exact BitVec.eq_of_toNat_eq (show t.pid.lastCmd.toNat = 255 by omega)
  · have hraw := hsatLo.1 h10
    exact BitVec.eq_of_toNat_eq (show t.pid.lastCmd.toNat = 0 by omega)
  · have hhi : ¬ 255 < raw := by rw [← hsatHi, h9]; exact Bool.false_ne_true
    have hlo : ¬ raw < 0 := by rw [← hsatLo, h10]; exact Bool.false_ne_true
    rw [hclamp, hc.lastRaw, pidLastRaw_toInt (by omega)]
    omega
  · have hraw := hsatHi.1 h9
    have hoff : windupAllows raw (pidError cur tgt) = false := by
      rw [← Bool.not_eq_true, windupAllows_iff, pidError]
      omega
    rw [hc.int, hoff]
    rfl

end Sys2Proof.Machine
end

section
/-! SUPPORT. The sequencer commands (41_sequencer.md R121 to R128): the response of SEQ_ADVANCE in the
bits of the ROM word it reports, a terminal call, SEQ_RESET, and that no other step writes the cursor. -/

namespace Sys2Proof.Machine

/-! ### The response of SEQ_ADVANCE -/

/-- `AUXP` is bit 15 of a ROM word. -/
theorem romAuxp_eq_one (w : RomWord) : romAuxp w = 1#1 ↔ w.getLsbD 15 = true := by
  have hbit : romAuxp w = BitVec.ofBool (w.getLsbD 15) := by
    ext i hi
    simp [romAuxp, Nat.lt_one_iff.1 hi]
  rw [hbit]
  cases w.getLsbD 15 <;> decide

theorem auxValid_stepOfRom (w : RomWord) : auxValid (stepOfRom w) = w.getLsbD 15 := by
  rw [auxValid, stepOfRom, Bool.eq_iff_iff, ← romAuxp_eq_one]
  split <;> simp [*]

theorem auxValue_stepOfRom (w : RomWord) :
    auxValue (stepOfRom w) = if w.getLsbD 15 = true then w.extractLsb' 0 8 else 0#8 := by
  rw [auxValue, stepOfRom]
  simp only [romAuxp_eq_one]
  split <;> rfl

/-- The target reported is the floor of the accumulator over 1024, and AUX and AUX_VALID are fields of
the ROM word. -/
theorem seqData_report (c : Cursor) (b : Bool) (w : RomWord) :
    (seqData c b (stepOfRom w)).extractLsb' 0 16 =
      BitVec.ofInt 16 (Int.fdiv c.acc.toInt 1024) ∧
    (seqData c b (stepOfRom w)).extractLsb' 16 8 =
      (if w.getLsbD 15 = true then w.extractLsb' 0 8 else 0#8) ∧
    (seqData c b (stepOfRom w)).getLsbD 24 = w.getLsbD 15 := by
  obtain ⟨htarget, haux, hvalid, -⟩ := seqData_fields c b (stepOfRom w)
  exact ⟨htarget.trans (congrArg _ (target_eq_fdiv c)), haux.trans (auxValue_stepOfRom w),
    hvalid.trans (auxValid_stepOfRom w)⟩

theorem seqData_getLsbD_terminal (c : Cursor) (b : Bool) (q : ProfileStep) :
    (seqData c b q).getLsbD 25 = b := by
  obtain ⟨-, -, -, hterm, -⟩ := seqData_fields c b q
  exact hterm

theorem seqData_getLsbD_overflow (c : Cursor) (b : Bool) (q : ProfileStep) :
    (seqData c b q).getLsbD 26 = targetOverflow c := by
  obtain ⟨-, -, -, -, hovf, -⟩ := seqData_fields c b q
  exact hovf

theorem seqData_reserved (c : Cursor) (b : Bool) (q : ProfileStep) :
    (seqData c b q).extractLsb' 27 37 = 0#37 := by
  obtain ⟨-, -, -, -, -, hrsv⟩ := seqData_fields c b q
  exact hrsv

/-- On a table that is not empty SEQ_ADVANCE completes. -/
theorem exec_seqAdvance_of_ne_nil {s : State} (h : s.cfg.profile ≠ []) :
    ∃ t, exec .seqAdvance s = .next t := by
  obtain ⟨w, hw, -⟩ := auxStep_eq_some h (cursorNext s.cfg s.seq)
  exact ⟨_, exec_seqAdvance_next.2 ⟨w, hw, rfl⟩⟩

/-- Settles O39: each item is a field of the response, built from the cursor after the call. -/
theorem seqAdvanceReport : Obligations.SeqAdvanceReport := by
  intro s hne
  obtain ⟨t, h⟩ := exec_seqAdvance_of_ne_nil hne
  obtain ⟨w, hw, rfl⟩ := exec_seqAdvance_next.1 h
  obtain ⟨htarget, haux, hvalid⟩ :=
    seqData_report (cursorNext s.cfg s.seq) (terminal s.cfg s.seq) w
  refine ⟨_, w, h, hw, htarget, haux, hvalid, ?_, seqData_reserved .., ?_⟩
  · rw [State.respond_rspData, seqData_getLsbD_overflow]
    exact targetOverflow_iff _
  · rw [State.respond_rspData, seqData_getLsbD_overflow]
    rfl

/-! ### A terminal SEQ_ADVANCE -/

/-- What a terminal call gives: the cursor stands still, and the step reported is the last. -/
theorem exec_seqAdvance_of_terminal {s : State} {w : RomWord}
    (hw : s.cfg.profile.getLast? = some w) (hend : s.cfg.profile.length ≤ s.seq.idx.toNat) :
    exec .seqAdvance s = .next ((s.recordTargetRange (targetOverflow s.seq)).respond .ok
      (seqData s.seq true (stepOfRom w)) []) := by
  have hlast : min s.seq.idx.toNat (s.cfg.profile.length - 1) = s.cfg.profile.length - 1 := by
    omega
  refine exec_seqAdvance_next.2 ⟨w, ?_, ?_⟩
  · rw [cursorNext_of_terminal hend, hlast, ← List.getLast?_eq_getElem?, hw]
  · rw [cursorNext_of_terminal hend, terminal_iff.2 hend]
    rfl

/-- To record the same fault and give the same response a second time changes nothing. -/
theorem State.recordTargetRange_respond_twice (s : State) (b : Bool) (st : Status) (d : DataWord)
    (e : List Event) :
    (((s.recordTargetRange b).respond st d e).recordTargetRange b).respond st d e =
      (s.recordTargetRange b).respond st d e := by
  simp [State.recordTargetRange, State.respond]

/-- A terminal call's state is a fixed point: the next call finds the same cursor and table. -/
theorem exec_seqAdvance_of_terminal_twice {s t : State} {w : RomWord}
    (hw : s.cfg.profile.getLast? = some w) (hend : s.cfg.profile.length ≤ s.seq.idx.toNat)
    (h : exec .seqAdvance s = .next t) : exec .seqAdvance t = .next t := by
  cases (exec_seqAdvance_of_terminal hw hend).symm.trans h
  refine Eq.trans (exec_seqAdvance_of_terminal (w := w) ?_ ?_) ?_
  · exact hw
  · exact hend
  · exact congrArg _ (State.recordTargetRange_respond_twice ..)

/-- Settles O38: a terminal call changes nothing but the response, which it repeats; TERMINAL is judged
on the cursor before the call. -/
theorem seqAdvanceTerminal : Obligations.SeqAdvanceTerminal := by
  constructor
  · intro s hne hend
    obtain ⟨w, hw⟩ : ∃ w, s.cfg.profile.getLast? = some w := ⟨_, List.getLast?_eq_some_getLast hne⟩
    have h := exec_seqAdvance_of_terminal hw hend.ge
    obtain ⟨htarget, haux, hvalid⟩ := seqData_report s.seq true w
    refine ⟨_, w, h, seqData_getLsbD_terminal .., rfl, htarget, hw, hvalid, haux, ?_,
      exec_seqAdvance_of_terminal_twice hw hend.ge h⟩
    rw [State.respond_rspData, seqData_getLsbD_overflow]
    rfl
  · intro s hlt
    obtain ⟨t, h⟩ := exec_seqAdvance_of_ne_nil (List.length_pos_iff.1 (Nat.zero_lt_of_lt hlt))
    refine ⟨t, h, ?_⟩
    obtain ⟨w, -, rfl⟩ := exec_seqAdvance_next.1 h
    rw [State.respond_rspData, seqData_getLsbD_terminal, ← Bool.not_eq_true, terminal_iff]
    omega

/-! ### SEQ_RESET -/

/-- Settles O40: the cursor written is the power-on cursor, which does not depend on the cursor before
the call. -/
theorem seqResetResult : Obligations.SeqResetResult := by
  intro s hl
  have ⟨_, _, hprof, _⟩ := hl
  obtain ⟨w, hw, hrem⟩ := Cursor.powerOn_rem hprof
  refine ⟨decode_cmdWord s.cfg 0x11 0 0 0, _, w, exec_seqReset s, hw, ?_, rfl⟩
  rw [← hrem]
  rfl

/-! ### Pause -/

/-- Every command but SEQ_ADVANCE and SEQ_RESET keeps the cursor. -/
theorem exec_seq_of_ne {i : Instr} {s t : State} (h : exec i s = .next t)
    (hadv : i ≠ .seqAdvance) (hres : i ≠ .seqReset) : t.seq = s.seq := by
  cases i with
  | seqAdvance => exact absurd rfl hadv
  | seqReset => exact absurd rfl hres
  | pidCompute cur tgt => obtain ⟨_, _, _, rfl⟩ := exec_pidCompute_next.1 h; rfl
  | tcRead d => obtain ⟨_, _, _, _, rfl⟩ := exec_tcRead_next.1 h; rfl
  | readReg r => obtain ⟨_, _, rfl⟩ := exec_readReg_next.1 h; rfl
  | nop | pidSetGains | pidReset | mix | mixManual => cases h; rfl

/-- A step that is no SEQ_ADVANCE, no SEQ_RESET and no power-on reset keeps the cursor. -/
theorem step_seq_of_paused {s t : State} (h : step s = .next t) (hreset : s.resetsNext = false)
    (hadv : s.nextInstr ≠ some .seqAdvance) (hres : s.nextInstr ≠ some .seqReset) :
    t.seq = s.seq := by
  obtain ⟨-, rfl⟩ | ⟨w, rest, i, hin, hdec, hexec⟩ | ⟨w, rest, why, -, -, rfl⟩ | ⟨rest, -, rfl⟩ |
    ⟨rest, hin, -⟩ := step_next_cases h
  · rfl
  · have hnext : s.nextInstr = some i := by rw [State.nextInstr_of_command hin, hdec]; rfl
    rw [hnext] at hadv hres
    exact exec_seq_of_ne (s := { s with inputs := rest }) hexec (ne_of_apply_ne some hadv)
      (ne_of_apply_ne some hres)
  · rfl
  · rfl
  · simp [State.resetsNext, hin] at hreset

/-- Settles O20: the step keeps the configuration and the cursor, and SEQ_ADVANCE reads nothing else. -/
theorem cursorFrozenWhilePaused : Obligations.CursorFrozenWhilePaused := by
  intro s t h hreset hadv hres
  have hseq : t.seq = s.seq := step_seq_of_paused h hreset hadv hres
  refine ⟨hseq, fun a ha => ?_⟩
  obtain ⟨b, hb⟩ := exec_seq_of_agree (.inl rfl) ha (step_cfg h).symm hseq.symm
  exact ⟨_, hb, rfl, rfl, rfl⟩

end Sys2Proof.Machine
end

section
/-! SUPPORT. Settles the statement about the value of a successful read (42_thermocouple.md R148): a
window of values in the band has a mean in the band. -/

namespace Sys2Proof.Machine

/-! ### The mean of the window -/

/-- The sum of a list of words that all lie in the band lies between its length times the ends of the
band. -/
theorem sum_toNat_bounds {p : Params} {l : List (BitVec 16)} (h : ∀ v ∈ l, InBand p v) :
    l.length * p.tcMin ≤ (l.map BitVec.toNat).sum ∧
      (l.map BitVec.toNat).sum ≤ l.length * p.tcMax := by
  constructor
  · simpa using List.card_nsmul_le_sum (l.map BitVec.toNat) p.tcMin
      (List.forall_mem_map.2 fun v hv => (h v hv).1)
  · simpa using List.sum_le_card_nsmul (l.map BitVec.toNat) p.tcMax
      (List.forall_mem_map.2 fun v hv => (h v hv).2)

/-- The mean of a whole window whose entries lie in the band lies in the band: the division by the
window's size is floored, and both ends of the band are whole numbers. -/
theorem avgMean_inBand {p : Params} {c : TcDev} (hlen : c.avg.length = p.window)
    (h : ∀ v ∈ c.avg, InBand p v) : InBand p (avgMean p c) := by
  obtain ⟨hmin, hmax⟩ := sum_toNat_bounds h
  have hpos : 0 < 2 ^ p.avgLog2 := Nat.two_pow_pos _
  rw [hlen, Params.window] at hmin hmax
  rw [InBand, avgMean_toNat hlen]
  constructor
  · rw [Nat.le_div_iff_mul_le hpos, Nat.mul_comm]
    exact hmin
  · exact Nat.div_le_of_le_mul hmax

/-! ### The value of a read -/

theorem tcValue_of_noFault {p : Params} {raw : RawWord} (h : classify p raw = .noFault)
    (c : TcDev) : tcValue p raw c = avgMean p (tcAccept p raw c) := if_pos h

theorem tcReadNext_value (d : BitVec 4) (c : TcDev) (s : State) :
    (tcReadNext d c s).rspData.extractLsb' 0 16 = tcValue s.cfg (sensorWord d s) c := by
  obtain ⟨hvalue, -, -⟩ := tcData_fields (sensorWord d s)
    (faultCode (classify s.cfg (sensorWord d s))) (tcValue s.cfg (sensorWord d s) c)
  exact hvalue

/-- A read without a fault pushes its reading, which keeps the device's part of the invariant, so the
window it takes the mean of lies in the band. -/
theorem tcValue_inBand {p : Params} {raw : RawWord} {c : TcDev} (hp : p.TcOk) (hc : c.Inv p)
    (hroom : InBand p p.roomTc) (h : classify p raw = .noFault) :
    InBand p (tcValue p raw c) := by
  have hpushed := tcAccept_inv hp hc h
  obtain ⟨-, hentries⟩ := hpushed.band hroom
  rw [tcValue_of_noFault h]
  exact avgMean_inBand hpushed.window.1 hentries

/-- Settles O44: the sentinels are evaluated, and a read with status OK answers the mean of a window
that the invariant keeps in the band. -/
theorem meanLiesInBand : Obligations.MeanLiesInBand := by
  refine ⟨by decide, fun s t d hinv hroom hexec hst => ?_⟩
  have ⟨_, _, _, htc⟩ := hinv.legal
  obtain ⟨c, -, hget, -, rfl⟩ := exec_tcRead_next.1 hexec
  rw [tcReadNext_rspStatus] at hst
  rw [tcReadNext_value]
  exact tcValue_inBand htc (hinv.tcInv (List.mem_of_getElem? hget)) hroom
    (statusCode_tcStatus_eq_zero.1 hst)

end Sys2Proof.Machine
end

section
/-! SUPPORT. Settles the statements about the mixer and the PWM output stage (43_mixer_pwm.md R160 to
R167): the closed form of MIX, one tick, and the number of ticks a held duty is on in one period. -/

namespace Sys2Proof.Machine

/-! ### The command words -/

/-- Two fields of eight bits are read back from the half-word they make. -/
theorem extractLsb'_two_bytes (x y : BitVec 8) :
    (x ++ y : BitVec 16).extractLsb' 8 8 = x ∧ (x ++ y : BitVec 16).extractLsb' 0 8 = y :=
  ⟨BitVec.extractLsb'_append_eq_left, BitVec.extractLsb'_append_eq_right⟩

/-- A word is the same whether its last field is appended whole or in two parts. -/
theorem cmdWord_append_bytes (op : BitVec 8) (dev : BitVec 4) (a : BitVec 16) (x y : BitVec 8) :
    cmdWord op dev a (x ++ y) = op ++ dev ++ 0#20 ++ a ++ x ++ y := by
  apply BitVec.eq_of_toNat_eq
  simp only [cmdWord, BitVec.toNat_append, Nat.shiftLeft_or_distrib, Nat.or_assoc,
    ← Nat.shiftLeft_add]

theorem decode_cmdWord_mix (p : Params) (c : BitVec 8) :
    decode p (cmdWord opMix 0 0 (0#8 ++ c)) = .instr (.mix c) := by
  obtain ⟨hzero, hc⟩ := extractLsb'_two_bytes 0#8 c
  rw [decode_cmdWord]
  change orField (_ && _ && (0#8 ++ c : BitVec 16).extractLsb' 8 8 == 0)
    (.mix ((0#8 ++ c : BitVec 16).extractLsb' 0 8)) = _
  rw [hzero, hc]
  rfl

theorem decode_cmdWord_mixManual (p : Params) (a b : BitVec 8) :
    decode p (cmdWord opMixManual 0 0 (a ++ b)) = .instr (.mixManual a b) := by
  obtain ⟨ha, hb⟩ := extractLsb'_two_bytes a b
  rw [decode_cmdWord]
  change Decoded.instr (.mixManual ((a ++ b : BitVec 16).extractLsb' 8 8)
    ((a ++ b : BitVec 16).extractLsb' 0 8)) = _
  rw [ha, hb]

/-! ### MIX and MIX_MANUAL -/

theorem mixDouble_toNat_of_le {x : Nat} (h : x ≤ mixHalf) : (mixDouble x).toNat = 2 * x := by
  have hlt : 2 * x < 2 ^ 8 := by unfold mixHalf at h; omega
  rw [mixDouble, if_neg (not_lt.2 h), BitVec.toNat_ofNat, Nat.mod_eq_of_lt hlt]

theorem mixDouble_of_gt {x : Nat} (h : mixHalf < x) : mixDouble x = 255 := if_pos h

/-- Channel b's base stays within half-scale up to command 169. -/
theorem mixBaseB_le_mixHalf_iff (c : BitVec 8) : mixBaseB c ≤ mixHalf ↔ c.toNat ≤ 169 := by
  unfold mixBaseB mixBaseA mixHalf
  omega

theorem mixHalf_lt_mixBaseB_iff (c : BitVec 8) : mixHalf < mixBaseB c ↔ 169 < c.toNat :=
  lt_iff_lt_of_le_iff_le (mixBaseB_le_mixHalf_iff c)

theorem mixCarryA_of_le {c : BitVec 8} (h : c.toNat ≤ 169) : mixCarryA c = c.toNat / 4 :=
  if_neg (mt (mixHalf_lt_mixBaseB_iff c).1 (not_lt.2 h))

/-- Channel a takes all of the command that lies above channel b's half-scale. -/
theorem mixCarryA_of_gt {c : BitVec 8} (h : 169 < c.toNat) : mixCarryA c = c.toNat - 127 := by
  rw [mixCarryA, if_pos ((mixHalf_lt_mixBaseB_iff c).2 h)]
  unfold mixBaseB mixBaseA mixHalf
  omega

theorem mix_toNat_of_le {c : BitVec 8} (h : c.toNat ≤ 169) :
    (mixA c).toNat = 2 * (c.toNat / 4) ∧ (mixB c).toNat = 2 * (c.toNat - c.toNat / 4) := by
  constructor
  · rw [mixA, mixCarryA_of_le h]
    exact mixDouble_toNat_of_le (by unfold mixHalf; omega)
  · exact mixDouble_toNat_of_le ((mixBaseB_le_mixHalf_iff c).2 h)

/-- The carry exceeds half-scale at command 255 alone. -/
theorem mix_toNat_of_gt {c : BitVec 8} (h : 169 < c.toNat) :
    (mixA c).toNat = (if c.toNat = 255 then 255 else 2 * (c.toNat - 127)) ∧ mixB c = 255 := by
  constructor
  · rw [mixA, mixCarryA_of_gt h]
    split
    · rw [mixDouble_of_gt (by unfold mixHalf; omega)]
      rfl
    · exact mixDouble_toNat_of_le (by unfold mixHalf; omega)
  · exact mixDouble_of_gt ((mixHalf_lt_mixBaseB_iff c).2 h)

/-- Settles O46: the duties written are `mixA c` and `mixB c`, which have the closed form on either side
of command 169. -/
theorem mixClosedForm : Obligations.MixClosedForm := by
  intro s c
  refine ⟨?_, mixA c, mixB c, rfl, mix_toNat_of_le, mix_toNat_of_gt⟩
  rw [← decode_cmdWord_mix s.cfg, cmdWord_append_bytes]
  rfl

/-- Settles O48: the word is the encoder's, and the meaning is one write of both duties. -/
theorem mixManualResult : Obligations.MixManualResult := by
  intro s a b
  refine ⟨?_, rfl⟩
  rw [← decode_cmdWord_mixManual s.cfg, cmdWord_append_bytes]
  rfl

/-! ### One tick -/

/-- `duty` and `out` are one channel: a tick turns the output on exactly where the phase is below the
duty, and power-on reset leaves the duty 0. What holds of a channel then holds of a and of b. -/
structure IsChannel (duty : Pwm → BitVec 8) (out : Pwm → BitVec 1) : Prop where
  out_pwmNext : ∀ o, out (pwmNext o) = 1 ↔ o.phase.toNat < (duty o).toNat
  duty_powerOn : duty Pwm.powerOn = 0

theorem ofBool_decide_eq_one {P : Prop} [Decidable P] : BitVec.ofBool (decide P) = 1 ↔ P := by
  by_cases h : P <;> simp [h]

theorem isChannel_a : IsChannel Pwm.chA Pwm.outA := ⟨fun _ => ofBool_decide_eq_one, rfl⟩

theorem isChannel_b : IsChannel Pwm.chB Pwm.outB := ⟨fun _ => ofBool_decide_eq_one, rfl⟩

theorem pwmNext_phase_toNat (o : Pwm) : (pwmNext o).phase.toNat = (o.phase.toNat + 1) % 255 := by
  simp only [pwmNext, pwmPeriod, BitVec.toNat_ofNat]
  omega

theorem step_of_pwmTick {s : State} {rest : List Input} (hl : s.cfg.Legal)
    (hin : s.inputs = .pwmTick :: rest) : step s = .next (pwmTick { s with inputs := rest }) := by
  rw [step, if_pos hl, hin]

/-- Settles O14: the step is `pwmTick`, which writes the output stage and the events alone. -/
theorem stepTakesPwmTick : Obligations.StepTakesPwmTick := by
  intro s rest hl hin
  exact ⟨_, step_of_pwmTick hl hin, isChannel_a.out_pwmNext s.pwm, isChannel_b.out_pwmNext s.pwm,
    pwmNext_phase_toNat s.pwm, rfl, rfl, rfl⟩

/-- A larger duty is on whenever a smaller one is, at the same phase. -/
theorem IsChannel.out_pwmNext_mono {duty : Pwm → BitVec 8} {out : Pwm → BitVec 1}
    (hch : IsChannel duty out) {o q : Pwm} (hphase : o.phase = q.phase)
    (hduty : (duty o).toNat ≤ (duty q).toNat) (hon : out (pwmNext o) = 1) : out (pwmNext q) = 1 := by
  rw [hch.out_pwmNext] at hon ⊢
  rw [← hphase]
  exact hon.trans_le hduty

/-! ### The ticks of a period -/

/-- How many of `n` ticks in a row, the first at phase `phase`, fall at a phase below `duty`. -/
def ticksOn (duty phase n : Nat) : Nat := Nat.count (fun k => (phase + k) % pwmPeriod < duty) n

theorem ticksOn_zero_duty (phase n : Nat) : ticksOn 0 phase n = 0 := by simp [ticksOn]

/-- The first tick is on where the phase is below the duty, and the rest start at the next phase. -/
theorem ticksOn_succ (duty n : Nat) {phase : Nat} (h : phase ≤ 254) :
    ticksOn duty phase (n + 1) =
      ticksOn duty ((phase + 1) % 255) n + if phase < duty then 1 else 0 := by
  have hshift : ∀ k, ((phase + 1) % 255 + k) % pwmPeriod = (phase + (k + 1)) % pwmPeriod := by
    unfold pwmPeriod; omega
  have hphase : phase % pwmPeriod = phase := Nat.mod_eq_of_lt (Nat.lt_succ_of_le h)
  simp only [ticksOn, Nat.count_succ', hshift, Nat.add_zero, hphase]

/-- From phase 0 the duty is on for the first `duty` ticks and off for the rest. -/
theorem ticksOn_period_of_phase_zero {duty : Nat} (h : duty ≤ 255) : ticksOn duty 0 255 = duty := by
  have hon : (Finset.range 255).filter (fun k => (0 + k) % pwmPeriod < duty) =
      Finset.range duty := by
    ext k
    rw [Finset.mem_filter, Finset.mem_range, Finset.mem_range, pwmPeriod]
    omega
  rw [ticksOn, Nat.count_eq_card_filter_range, hon, Finset.card_range]

/-- A whole period has `duty` ticks on, whatever phase it starts at: the `phase` ticks it leaves out at
its start come again at its end. -/
theorem ticksOn_period {duty : Nat} (h : duty ≤ 255) (phase : Nat) :
    ticksOn duty phase 255 = duty := by
  have hshift : ∀ k, (0 + (255 + k)) % pwmPeriod = (0 + k) % pwmPeriod := by
    unfold pwmPeriod; omega
  have hzero : ∀ k, (0 + (phase + k)) % pwmPeriod = (phase + k) % pwmPeriod := by simp
  have hsplit : ticksOn duty 0 phase + ticksOn duty phase 255 =
      ticksOn duty 0 255 + ticksOn duty 0 phase := calc
    ticksOn duty 0 phase + ticksOn duty phase 255 = ticksOn duty 0 (phase + 255) := by
      simp only [ticksOn, Nat.count_add, hzero]
    _ = ticksOn duty 0 (255 + phase) := by rw [Nat.add_comm]
    _ = ticksOn duty 0 255 + ticksOn duty 0 phase := by
      simp only [ticksOn, Nat.count_add _ 255, hshift]
  rw [ticksOn_period_of_phase_zero h] at hsplit
  omega

/-! ### The ticks of a run -/

/-- No command writes the phase. -/
theorem exec_phase {i : Instr} {s t : State} (h : exec i s = .next t) :
    t.pwm.phase = s.pwm.phase := by
  cases i with
  | pidCompute cur tgt => obtain ⟨_, _, _, rfl⟩ := exec_pidCompute_next.1 h; rfl
  | seqAdvance => obtain ⟨_, _, rfl⟩ := exec_seqAdvance_next.1 h; rfl
  | tcRead d => obtain ⟨_, _, _, _, rfl⟩ := exec_tcRead_next.1 h; rfl
  | readReg r => obtain ⟨_, _, rfl⟩ := exec_readReg_next.1 h; rfl
  | nop | pidSetGains | pidReset | seqReset | mix | mixManual => cases h; rfl

/-- What a step does to the output stage: a tick, or the phase kept, or power-on reset. -/
theorem step_pwm_cases {s t : State} (h : step s = .next t) :
    (s.ticksNext = true ∧ t.pwm = pwmNext s.pwm) ∨
    (s.ticksNext = false ∧ t.pwm.phase = s.pwm.phase) ∨
    (s.ticksNext = false ∧ t.pwm = Pwm.powerOn) := by
  obtain ⟨hin, rfl⟩ | ⟨w, rest, i, hin, -, hexec⟩ | ⟨w, rest, why, hin, -, rfl⟩ |
    ⟨rest, hin, rfl⟩ | ⟨rest, hin, rfl⟩ := step_next_cases h
  · exact .inr (.inl ⟨by rw [State.ticksNext, hin], rfl⟩)
  · have hphase := exec_phase (s := { s with inputs := rest }) hexec
    exact .inr (.inl ⟨by rw [State.ticksNext, hin], hphase⟩)
  · exact .inr (.inl ⟨by rw [State.ticksNext, hin], rfl⟩)
  · exact .inl ⟨by rw [State.ticksNext, hin], rfl⟩
  · exact .inr (.inr ⟨by rw [State.ticksNext, hin], rfl⟩)

theorem ticksTaken_of_tick {s t : State} (n : Nat) (h : step s = .next t)
    (htick : s.ticksNext = true) : ticksTaken (n + 1) s = (s, t) :: ticksTaken n t := by
  rw [ticksTaken_succ n h, if_pos htick, List.singleton_append]

theorem ticksTaken_of_no_tick {s t : State} (n : Nat) (h : step s = .next t)
    (htick : s.ticksNext = false) : ticksTaken (n + 1) s = ticksTaken n t := by
  rw [ticksTaken_succ n h, htick]
  rfl

theorem ticksTaken_of_stops {s : State} (n : Nat) (h : ∀ t, step s ≠ .next t) :
    ticksTaken (n + 1) s = [] := by
  unfold ticksTaken stepsTaken
  split
  · exact absurd ‹_› (h _)
  · rfl

/-- The channel holds the duty `c` before and after each of the next `n` steps. -/
def HoldsDuty (duty : Pwm → BitVec 8) (c : BitVec 8) (n : Nat) (s : State) : Prop :=
  ∀ p ∈ stepsTaken n s, duty p.1.pwm = c ∧ duty p.2.pwm = c

theorem holdsDuty_succ {duty : Pwm → BitVec 8} {c : BitVec 8} {n : Nat} {s t : State}
    (h : step s = .next t) :
    HoldsDuty duty c (n + 1) s ↔ (duty s.pwm = c ∧ duty t.pwm = c) ∧ HoldsDuty duty c n t := by
  rw [HoldsDuty, stepsTaken_succ n h, List.forall_mem_cons]
  rfl

/-- The ticks of a run that turn the output on are those `ticksOn` counts: a step that is no tick leaves
the phase alone, or it is a power-on reset, after which the held duty is 0 and no tick is on. -/
theorem IsChannel.ticksTaken_on_length {duty : Pwm → BitVec 8} {out : Pwm → BitVec 1}
    (hch : IsChannel duty out) {c : BitVec 8} (n : Nat) :
    ∀ s : State, s.pwm.phase.toNat ≤ 254 → HoldsDuty duty c n s →
      ((ticksTaken n s).filter fun p => out p.2.pwm == 1).length =
        ticksOn c.toNat s.pwm.phase.toNat (ticksTaken n s).length := by
  induction n with
  | zero => exact fun s _ _ => rfl
  | succ n ih =>
    intro s hphase hholds
    by_cases hnext : ∃ t, step s = .next t
    · obtain ⟨t, hstep⟩ := hnext
      obtain ⟨⟨hs, ht⟩, htail⟩ := (holdsDuty_succ hstep).1 hholds
      obtain ⟨htick, hpwm⟩ | ⟨htick, hkept⟩ | ⟨htick, hpwm⟩ := step_pwm_cases hstep
      · have hon : out t.pwm = 1 ↔ s.pwm.phase.toNat < c.toNat := by
          rw [hpwm, hch.out_pwmNext, hs]
        have hrest := ih t (hpwm ▸ pwmNext_phase_le s.pwm) htail
        rw [hpwm, pwmNext_phase_toNat] at hrest
        rw [ticksTaken_of_tick n hstep htick, List.length_cons, ticksOn_succ _ _ hphase, ← hrest,
          List.filter_cons]
        simp only [beq_iff_eq, hon]
        split <;> rfl
      · rw [ticksTaken_of_no_tick n hstep htick, ← hkept]
        exact ih t (hkept ▸ hphase) htail
      · obtain rfl : c = 0 := by rw [← ht, hpwm, hch.duty_powerOn]
        have hrest := ih t (hpwm ▸ Nat.zero_le 254) htail
        rw [ticksTaken_of_no_tick n hstep htick]
        exact hrest.trans ((ticksOn_zero_duty _ _).trans (ticksOn_zero_duty _ _).symm)
    · rw [ticksTaken_of_stops n (not_exists.1 hnext)]
      rfl

theorem IsChannel.period_on_length {duty : Pwm → BitVec 8} {out : Pwm → BitVec 1}
    (hch : IsChannel duty out) {c : BitVec 8} {n : Nat} {s : State}
    (hphase : s.pwm.phase.toNat ≤ 254) (hlen : (ticksTaken n s).length = 255)
    (hholds : HoldsDuty duty c n s) :
    ((ticksTaken n s).filter fun p => out p.2.pwm == 1).length = c.toNat := by
  rw [hch.ticksTaken_on_length n s hphase hholds, hlen]
  exact ticksOn_period (Nat.le_of_lt_succ c.isLt) _

/-- Settles O49: what holds of one channel, for a and for b. -/
theorem dutyIsTicksOnPerPeriod : Obligations.DutyIsTicksOnPerPeriod := by
  refine ⟨fun s n c hphase hlen => ?_, fun s u hphase => ?_⟩
  · exact ⟨isChannel_a.period_on_length hphase hlen, isChannel_b.period_on_length hphase hlen⟩
  · exact ⟨isChannel_a.out_pwmNext_mono hphase, isChannel_b.out_pwmNext_mono hphase⟩

end Sys2Proof.Machine
end

section
/-! SUPPORT. NOP, READ_REG and ILLEGAL words (44_system.md R180 to R182). READ_REG answers `regValue`,
so its proof gives each register's value; the four thermocouple rows share one argument, as do the rows
that are a zero extension. -/

namespace Sys2Proof.Machine

/-! ### NOP and ILLEGAL words -/

/-- Settles O28: the all-zero word is built from the NOP opcode and zero fields. -/
theorem nopRespondsOnly : Obligations.NopRespondsOnly :=
  fun s => ⟨decode_cmdWord s.cfg opNop 0 0 0, rfl⟩

theorem step_of_command {s : State} {w : CmdWord} {rest : List Input} (hl : s.cfg.Legal)
    (hin : s.inputs = .command w :: rest) :
    step s = takeCommand w { s with inputs := rest } := by
  rw [step, if_pos hl, hin]

/-- Settles O13: the step takes the word, and taking an ILLEGAL word is `takeIllegal`. -/
theorem stepOnIllegalWord : Obligations.StepOnIllegalWord := by
  intro s w rest why hl hin hdec
  rw [step_of_command hl hin]
  exact takeCommand_of_illegal hdec

/-! ### READ_REG -/

theorem decode_cmdWord_readReg {p : Params} {r : Reg} (hl : p.Legal) (hr : r.wf p = true) :
    decode p (cmdWord opReadReg 0 r.num 0) = .instr (.readReg r) := by
  rw [decode_cmdWord, decodeFields, regOfNum_num_of_wf hl hr]
  rfl

theorem toNat_append_eq {m n : Nat} (x : BitVec m) (y : BitVec n) :
    (x ++ y).toNat = x.toNat * 2 ^ n + y.toNat := by
  rw [BitVec.toNat_append, ← Nat.shiftLeft_add_eq_or_of_lt y.isLt, Nat.shiftLeft_eq]

/-- GAINS packs `GAIN_KP` 11:8, `GAIN_KI` 7:4 and `GAIN_KD` 3:0. -/
theorem zext64_gains_toNat (kp ki kd : BitVec 4) :
    (zext64 (kp ++ ki ++ kd)).toNat = kp.toNat * 256 + ki.toNat * 16 + kd.toNat := by
  rw [zext64_toNat _ (by decide), toNat_append_eq, toNat_append_eq]
  omega

/-- OUTS packs `OUT_B` above `OUT_A`. -/
theorem zext64_outs_toNat (b a : BitVec 1) :
    (zext64 (b ++ a)).toNat = b.toNat * 2 + a.toNat := by
  rw [zext64_toNat _ (by decide), toNat_append_eq, pow_one]

/-- A device that exists has its registers, and its window has its length. -/
theorem State.Shape.exists_tcDev {s : State} (h : s.Shape) {d : BitVec 4}
    (hd : d.toNat < s.cfg.numTc) :
    ∃ c, tcDev s d = some c ∧ s.tc[d.toNat]? = some c ∧ c.avg.length = s.cfg.window := by
  obtain ⟨-, htc, hwin⟩ := h
  obtain ⟨c, hc⟩ := memRead_of_lt htc hd
  have hget := (memRead_eq_some.1 hc).2
  exact ⟨c, hc, hget, hwin c (List.mem_of_getElem? hget)⟩

/-- Settles O29: a register and its number determine each other, and READ_REG answers `regValue`. A
parameter fits 64 bits by its legal range, and an index lies in its memory because the register
exists. -/
theorem readRegReturnsTheRegister : Obligations.ReadRegReturnsTheRegister := by
  intro s r hl hshape hr
  refine ⟨decode_cmdWord_readReg hl hr, ?_⟩
  have ⟨⟨⟨_, hhist⟩, hdshift⟩, _, ⟨⟨_, hprof⟩, _⟩, _⟩ := hl
  cases r with
  | gains => exact ⟨_, rfl, zext64_gains_toNat _ _ _⟩
  | outs => exact ⟨_, rfl, zext64_outs_toNat _ _⟩
  | pidInt | pidLastRaw => exact ⟨_, rfl, rfl⟩
  | pidHidx | pidLastCmd | pidFlags | seqIdx | seqRem | chA | chB | pwmPhase =>
    exact ⟨_, rfl, zext64_toNat _ (by decide)⟩
  | seqAcc => exact ⟨_, rfl, sext64_toInt _ (by decide)⟩
  | pidDshift | pidHistLen | profileLen => exact ⟨_, rfl, toNat_ofNat_of_lt (by omega)⟩
  | tcLast d | tcAidx d | tcFault d | tcFcode d =>
    obtain ⟨c, hc, hget, -⟩ := hshape.exists_tcDev (of_decide_eq_true hr)
    exact ⟨_, exec_readReg_next.2 ⟨_, by rw [regValue, hc]; rfl, rfl⟩, c, hget,
      zext64_toNat _ (by decide)⟩
  | tcAvg d j =>
    obtain ⟨hd, hj⟩ : d.toNat < s.cfg.numTc ∧ j.toNat < s.cfg.window := by
      simpa [Reg.wf] using hr
    obtain ⟨c, hc, hget, hlen⟩ := hshape.exists_tcDev hd
    obtain ⟨x, hx⟩ := memRead_of_lt hlen hj
    exact ⟨_, exec_readReg_next.2 ⟨_, by rw [regValue, hc, Option.bind_some, hx]; rfl, rfl⟩, c, x,
      hget, (memRead_eq_some.1 hx).2, zext64_toNat _ (by decide)⟩
  | pidHist i =>
    obtain ⟨x, hx⟩ := memRead_of_lt hshape.1 (of_decide_eq_true hr)
    exact ⟨_, exec_readReg_next.2 ⟨_, by rw [regValue, hx]; rfl, rfl⟩, x,
      (memRead_eq_some.1 hx).2, sext64_toInt _ (by decide)⟩
  | profile k =>
    obtain ⟨w, hw⟩ := memRead_of_lt (m := s.cfg.profile) rfl (of_decide_eq_true hr)
    exact ⟨_, exec_readReg_next.2 ⟨_, by rw [regValue, Params.profileLen, hw]; rfl, rfl⟩, w,
      (memRead_eq_some.1 hw).2, zext64_toNat _ (by decide)⟩

end Sys2Proof.Machine
end

section
/-! SUPPORT. Settles the statement about GFAULT (60_exceptions.md R192): no command that is performed
emits one, and neither do a tick and power-on reset. -/

namespace Sys2Proof.Machine

/-! ### The events of a step -/

/-- A faulted read emits TFAULT, and a read without a fault nothing. -/
theorem gfault_notMem_tcEvents (p : Params) (d : BitVec 4) (raw : RawWord) (op : BitVec 8) :
    .gfault op ∉ tcEvents p d raw := by
  unfold tcEvents
  split <;> simp

/-- A command that is performed emits no GFAULT. -/
theorem exec_gfault_notMem {i : Instr} {s t : State} (h : exec i s = .next t) (op : BitVec 8) :
    .gfault op ∉ t.events := by
  cases i with
  | tcRead d =>
    obtain ⟨_, _, _, _, rfl⟩ := exec_tcRead_next.1 h
    exact gfault_notMem_tcEvents s.cfg d (sensorWord d s) op
  | pidCompute cur tgt => obtain ⟨_, _, _, rfl⟩ := exec_pidCompute_next.1 h; exact List.not_mem_nil
  | seqAdvance => obtain ⟨_, _, rfl⟩ := exec_seqAdvance_next.1 h; exact List.not_mem_nil
  | readReg r => obtain ⟨_, _, rfl⟩ := exec_readReg_next.1 h; exact List.not_mem_nil
  | nop | pidSetGains | pidReset | seqReset | mix | mixManual => cases h; exact List.not_mem_nil

/-- A step that takes an entry either takes an ILLEGAL word and emits its GFAULT alone, or takes no
ILLEGAL word and emits no GFAULT. -/
theorem step_gfault_cases {s t : State} {x : Input} {rest : List Input} (h : step s = .next t)
    (hin : s.inputs = x :: rest) :
    (∃ w why, x = .command w ∧ decode s.cfg w = .illegal why ∧ t.events = [.gfault (opField w)]) ∨
    ((∀ w why, x = .command w → decode s.cfg w ≠ .illegal why) ∧ ∀ op, .gfault op ∉ t.events) := by
  obtain ⟨hin', -⟩ | ⟨w, rest', i, hin', hdec, hexec⟩ | ⟨w, rest', why, hin', hdec, rfl⟩ |
    ⟨rest', hin', rfl⟩ | ⟨rest', hin', rfl⟩ := step_next_cases h <;> cases hin.symm.trans hin'
  · refine .inr ⟨?_, exec_gfault_notMem hexec⟩
    rintro _ why ⟨⟩ hill
    cases hdec.symm.trans hill
  · exact .inl ⟨w, why, rfl, hdec, rfl⟩
  · exact .inr ⟨nofun, fun _ => List.not_mem_nil⟩
  · exact .inr ⟨nofun, fun _ => List.not_mem_nil⟩

/-- Settles O23: the step takes an ILLEGAL word and emits its GFAULT alone, or it emits none. -/
theorem genericFaultExactlyOnIllegalWord : Obligations.GenericFaultExactlyOnIllegalWord := by
  intro s t x rest h hin op
  obtain ⟨w, why, rfl, hdec, hev⟩ | ⟨hlegal, hnone⟩ := step_gfault_cases h hin
  · rw [hev]
    constructor
    · constructor
      · intro hmem
        cases List.mem_singleton.1 hmem
        exact ⟨w, why, rfl, hdec, rfl⟩
      · rintro ⟨_, -, ⟨⟩, -, rfl⟩
        exact List.mem_singleton_self _
    · intro hmem
      rw [List.mem_singleton.1 hmem]
  · refine ⟨⟨fun hmem => absurd hmem (hnone op), ?_⟩, fun hmem => absurd hmem (hnone op)⟩
    rintro ⟨w, why, hx, hdec, -⟩
    exact absurd hdec (hlegal w why hx)

end Sys2Proof.Machine
end

section
/-! SUPPORT. Encoding and decoding (30_encoding.md sections 2, 3 and 7): the words of the commands
and the existing commands correspond one to one, and so do the lines the assembler accepts. -/

namespace Sys2Proof.Machine

/-! ### Decoding the word of a command -/

theorem decode_cmdWord_tcRead {p : Params} {d : BitVec 4} (hd : d.toNat < p.numTc) :
    decode p (cmdWord opTcRead d 0 0) = .instr (.tcRead d) :=
  (decode_cmdWord p opTcRead d 0 0).trans (if_pos hd)

theorem decode_encode {p : Params} {i : Instr} (hl : p.Legal) (hi : i.wf p = true) :
    decode p (encode i) = .instr i := by
  cases i with
  | nop | pidReset | seqAdvance | seqReset => exact decode_cmdWord p _ 0 0 0
  | pidCompute cur tgt => exact decode_cmdWord_pidCompute p cur tgt
  | pidSetGains kp ki kd => exact decode_cmdWord_pidSetGains p kp ki kd
  | tcRead d => exact decode_cmdWord_tcRead (of_decide_eq_true hi)
  | mix c => exact decode_cmdWord_mix p c
  | mixManual a b => exact decode_cmdWord_mixManual p a b
  | readReg r => exact decode_cmdWord_readReg hl hi

/-- Settles O7: decoding a word built from fields is decoding the fields, one case a command. -/
theorem encodeThenDecode : Obligations.EncodeThenDecode := fun _ _ => decode_encode

/-! ### A word is built from its fields -/

/-- Two adjacent fields of a word, one above the other, are one field of it. -/
theorem extractLsb'_append_adjacent {n : Nat} (w : BitVec n) (k l m : Nat) :
    w.extractLsb' (k + m) l ++ w.extractLsb' k m = w.extractLsb' k (l + m) :=
  BitVec.extractLsb'_append_extractLsb'_eq_extractLsb' rfl

/-- With `RSV` 0, the other four fields hold every bit of the word. -/
theorem cmdWord_of_fields {w : CmdWord} (h : rsvField w = 0) :
    cmdWord (opField w) (devField w) (aField w) (bField w) = w := by
  have hrsv : w.extractLsb' 32 20 = 0#20 := h
  have hword : cmdWord (opField w) (devField w) (aField w) (bField w) =
      w.extractLsb' 56 8 ++ w.extractLsb' 52 4 ++ w.extractLsb' 32 20 ++ w.extractLsb' 16 16 ++
        w.extractLsb' 0 16 := by rw [hrsv]; rfl
  rw [hword, extractLsb'_append_adjacent w 52 8 4, extractLsb'_append_adjacent w 32 12 20,
    extractLsb'_append_adjacent w 16 32 16, extractLsb'_append_adjacent w 0 48 16]
  exact BitVec.extractLsb'_eq_self

/-- A half-word is its upper and its lower byte. -/
theorem append_bytes_eq (b : BitVec 16) : b.extractLsb' 8 8 ++ b.extractLsb' 0 8 = b :=
  (extractLsb'_append_adjacent b 0 8 8).trans BitVec.extractLsb'_eq_self

/-- A half-word is its four groups of four bits. -/
theorem append_nibbles_eq (b : BitVec 16) :
    b.extractLsb' 12 4 ++ b.extractLsb' 8 4 ++ b.extractLsb' 4 4 ++ b.extractLsb' 0 4 = b := by
  rw [extractLsb'_append_adjacent b 8 4 4, extractLsb'_append_adjacent b 4 8 4,
    extractLsb'_append_adjacent b 0 12 4]
  exact BitVec.extractLsb'_eq_self

/-! ### Encoding what a word decodes to -/

theorem orField_eq_instr {ok : Bool} {i j : Instr} :
    orField ok i = .instr j ↔ ok = true ∧ i = j := by
  cases ok <;> simp [orField]

/-- Fields that decode to a command are the fields of that command's word: a field marked 0 is 0,
and every other field is an operand. The cases are the opcodes, in the order the decoder tests. -/
theorem encode_of_decodeFields {p : Params} (hl : p.Legal) {op : BitVec 8} {dev : BitVec 4}
    {a b : BitVec 16} {i : Instr} (h : decodeFields p op dev a b = .instr i) :
    encode i = cmdWord op dev a b := by
  unfold decodeFields at h
  split_ifs at h with hop hop hop hop hop hop hop hdev hop hop hop
  all_goals subst hop
  any_goals simp only [orField_eq_instr, Bool.and_eq_true, beq_iff_eq] at h
  · obtain ⟨⟨⟨rfl, rfl⟩, rfl⟩, rfl⟩ := h
    rfl
  · obtain ⟨rfl, rfl⟩ := h
    rfl
  · obtain ⟨⟨⟨rfl, rfl⟩, hzero⟩, rfl⟩ := h
    have hb := append_nibbles_eq b
    rw [hzero] at hb
    exact congrArg (cmdWord opPidSetGains 0 0) hb
  · obtain ⟨⟨⟨rfl, rfl⟩, rfl⟩, rfl⟩ := h
    rfl
  · obtain ⟨⟨⟨rfl, rfl⟩, rfl⟩, rfl⟩ := h
    rfl
  · obtain ⟨⟨⟨rfl, rfl⟩, rfl⟩, rfl⟩ := h
    rfl
  · obtain ⟨⟨rfl, rfl⟩, rfl⟩ := h
    rfl
  · obtain ⟨⟨⟨rfl, rfl⟩, hzero⟩, rfl⟩ := h
    have hb := append_bytes_eq b
    rw [hzero] at hb
    exact congrArg (cmdWord opMix 0 0) hb
  · obtain ⟨⟨rfl, rfl⟩, rfl⟩ := h
    rw [encode, append_bytes_eq]
  · split at h
    · simp only [orField_eq_instr, Bool.and_eq_true, beq_iff_eq] at h
      obtain ⟨⟨rfl, rfl⟩, rfl⟩ := h
      rw [encode, regOfNum_num hl ‹_›]
    · cases h

theorem encode_of_decode {p : Params} (hl : p.Legal) {w : CmdWord} {i : Instr}
    (h : decode p w = .instr i) : encode i = w := by
  unfold decode at h
  split at h
  · next hrsv => rw [encode_of_decodeFields hl h, cmdWord_of_fields hrsv]
  · cases h

/-- Settles O8: the fields of the word are those the encoder writes, and a word is its fields. -/
theorem decodeThenEncode : Obligations.DecodeThenEncode :=
  fun _ _ _ hl h => ⟨encode_of_decode hl h, decode_wf h⟩

/-! ### The assembler -/

@[simp] theorem unsignedOperand_toNat {n : Nat} (b : BitVec n) :
    unsignedOperand n b.toNat = some b := by
  have hlt : (b.toNat : Int) < 2 ^ n := by exact_mod_cast b.isLt
  rw [unsignedOperand, if_pos ⟨Int.natCast_nonneg _, hlt⟩, BitVec.ofInt_natCast, BitVec.ofNat_toNat,
    BitVec.setWidth_eq]

@[simp] theorem signedOperand_toInt (b : BitVec 16) : signedOperand b.toInt = some b := by
  have hlo := b.le_toInt
  have hhi := b.toInt_lt
  rw [signedOperand, if_pos ⟨by omega, by omega⟩, BitVec.ofInt_toInt]

/-- An unsigned operand that is accepted keeps its value. -/
theorem toNat_of_unsignedOperand {n : Nat} {v : Int} {b : BitVec n}
    (h : unsignedOperand n v = some b) : (b.toNat : Int) = v := by
  unfold unsignedOperand at h
  split at h
  · next hv =>
    cases h
    rw [BitVec.toNat_ofInt]
    push_cast
    rw [Int.toNat_of_nonneg (Int.emod_nonneg _ (by positivity)), Int.emod_eq_of_lt hv.1 hv.2]
  · cases h

/-- A signed operand that is accepted keeps its value. -/
theorem toInt_of_signedOperand {v : Int} {b : BitVec 16} (h : signedOperand v = some b) :
    b.toInt = v := by
  unfold signedOperand at h
  split at h
  · next hv =>
    cases h
    rw [BitVec.toInt_ofInt]
    apply Int.bmod_eq_of_le <;> norm_num <;> omega
  · cases h

theorem unsignedOperand_eq_some {n : Nat} {v : Int} {b : BitVec n} :
    unsignedOperand n v = some b ↔ (b.toNat : Int) = v :=
  ⟨toNat_of_unsignedOperand, fun h => h ▸ unsignedOperand_toNat b⟩

theorem signedOperand_eq_some {v : Int} {b : BitVec 16} : signedOperand v = some b ↔ b.toInt = v :=
  ⟨toInt_of_signedOperand, fun h => h ▸ signedOperand_toInt b⟩

/-- A line that assembles is the line of the command it assembles to, and that command exists. -/
theorem line_of_assembleInstr {p : Params} {m : String} {ops : List Int} {i : Instr} (hl : p.Legal)
    (h : assembleInstr p m ops = some i) : i.wf p = true ∧ i.mnemonic = m ∧ i.operands = ops := by
  unfold assembleInstr at h
  split at h
  all_goals
    simp only [Option.bind_eq_bind, Option.bind_eq_some_iff, unsignedOperand_eq_some,
      signedOperand_eq_some, regOfNum_eq_some hl, Option.some.injEq, reduceCtorEq] at h
  · subst h; exact ⟨rfl, rfl, rfl⟩
  · obtain ⟨cur, rfl, tgt, rfl, rfl⟩ := h; exact ⟨rfl, rfl, rfl⟩
  · obtain ⟨kp, rfl, ki, rfl, kd, rfl, rfl⟩ := h; exact ⟨rfl, rfl, rfl⟩
  · subst h; exact ⟨rfl, rfl, rfl⟩
  · subst h; exact ⟨rfl, rfl, rfl⟩
  · subst h; exact ⟨rfl, rfl, rfl⟩
  · obtain ⟨d, rfl, h⟩ := h
    split at h
    · next hd => cases h; exact ⟨decide_eq_true hd, rfl, rfl⟩
    · cases h
  · obtain ⟨c, rfl, rfl⟩ := h; exact ⟨rfl, rfl, rfl⟩
  · obtain ⟨a, rfl, b, rfl, rfl⟩ := h; exact ⟨rfl, rfl, rfl⟩
  · obtain ⟨v, rfl, r, ⟨hr, rfl⟩, rfl⟩ := h; exact ⟨hr, rfl, rfl⟩

/-- A command that exists is assembled from its own line. -/
theorem assembleInstr_line {p : Params} {i : Instr} (hl : p.Legal) (hi : i.wf p = true) :
    assembleInstr p i.mnemonic i.operands = some i := by
  cases i with
  | nop | pidReset | seqAdvance | seqReset => rfl
  | pidCompute | pidSetGains | mix | mixManual =>
    simp [Instr.mnemonic, Instr.operands, assembleInstr]
  | tcRead d => simp [Instr.mnemonic, Instr.operands, assembleInstr, of_decide_eq_true hi]
  | readReg r =>
    simp [Instr.mnemonic, Instr.operands, assembleInstr, regOfNum_num_of_wf hl hi]

/-- Settles O11: a command and its line determine each other, and so do a command and its word. -/
theorem assemblerNeverTruncates : Obligations.AssemblerNeverTruncates := by
  refine fun p hl => ⟨fun m ops w h => ?_, fun i hi => ?_⟩
  · obtain ⟨i, hline, rfl⟩ := Option.map_eq_some_iff.1 h
    obtain ⟨hi, hm, hops⟩ := line_of_assembleInstr hl hline
    exact ⟨i, decode_encode hl hi, hm, hops⟩
  · rw [assemble, assembleInstr_line hl hi]
    rfl

/-- Settles O10: the decoder is evaluated on each word. -/
theorem specWordsDecode : Obligations.SpecWordsDecode := by
  unfold Obligations.SpecWordsDecode
  decide

end Sys2Proof.Machine
end

section
/-! SUPPORT. Settles the statements that the invariant (10_state.md R44) holds after power-on reset
and is kept by every step, which never stops; and the statements about the step (00_scope.md R3):
what it runs, what it refuses and what it leaves unchanged. -/

namespace Sys2Proof.Machine

/-! ### The invariant -/

/-- Settles O4: each command writes a unit that meets its part of the invariant (`exec_inv`), and so
do a tick and power-on reset. -/
theorem stepKeepsInvariant : Obligations.StepKeepsInvariant := fun _ _ => step_inv

/-- Settles O5: the decoder gives only commands that exist (`decode_wf`), and under the invariant a
command that exists forms no index outside a memory (`exec_next_of_inv`). -/
theorem stepNeverStopsUnderInvariant : Obligations.StepNeverStopsUnderInvariant :=
  fun _ => step_next_of_inv

/-- Settles O3: the power-on value of each unit meets the unit's part of the invariant. -/
theorem powerOnMeetsInvariant : Obligations.PowerOnMeetsInvariant :=
  fun _ inputs sensors hl => powerOn_inv hl inputs sensors

/-- Settles O2: the default parameters are legal, and reset is power-on under them. -/
theorem resetMeetsInvariant : Obligations.ResetMeetsInvariant :=
  powerOn_inv (p := Params.default) (by decide) [] []

/-! ### The step -/

/-- Settles O18: no command writes the configuration, and neither does any other step. -/
theorem profileTableIsImmutable : Obligations.ProfileTableIsImmutable := fun _ _ => step_cfg

/-- Every command has a meaning. -/
theorem exec_ne_refused (i : Instr) (s : State) (a : Refusal) : exec i s ≠ .refused a := by
  cases i with
  | nop | pidSetGains | pidReset | seqReset | mix | mixManual => exact nofun
  | pidCompute cur tgt => simp only [exec, execPidCompute]; split <;> exact nofun
  | seqAdvance => simp only [exec, execSeqAdvance]; split <;> exact nofun
  | tcRead d =>
    simp only [exec, execTcRead]
    split
    · exact nofun
    · split <;> exact nofun
  | readReg r => simp only [exec, execReadReg]; split <;> exact nofun

theorem takeCommand_ne_refused (w : CmdWord) (s : State) (a : Refusal) :
    takeCommand w s ≠ .refused a := by
  unfold takeCommand
  split
  · exact exec_ne_refused _ s a
  · exact nofun

/-- Under a legal configuration no step is refused. -/
theorem step_ne_refused {s : State} (hl : s.cfg.Legal) (a : Refusal) : step s ≠ .refused a := by
  rw [step, if_pos hl]
  split
  · exact nofun
  · exact takeCommand_ne_refused _ _ a
  · exact nofun
  · exact nofun

/-- Settles O15: the step refuses an illegal configuration, and no command refuses anything. -/
theorem stepRefusesIllegalConfiguration : Obligations.StepRefusesIllegalConfiguration := by
  refine fun s => ⟨fun ⟨a, h⟩ hl => step_ne_refused hl a h, fun hl => ⟨.illegalConfig, ?_⟩⟩
  rw [step, if_neg hl]

theorem takeCommand_of_instr {s : State} {w : CmdWord} {i : Instr} (h : decode s.cfg w = .instr i) :
    takeCommand w s = exec i s := by
  rw [takeCommand, h]

/-- Settles O12: the step takes the word, and a word that decodes is taken by its command. -/
theorem stepRunsDecodedInstruction : Obligations.StepRunsDecodedInstruction := by
  intro s w rest i hl hin hdec
  rw [step_of_command hl hin]
  exact takeCommand_of_instr hdec

/-- Settles O16: an empty schedule is an arm of the step. -/
theorem idleStepChangesNothing : Obligations.IdleStepChangesNothing := by
  intro s hl hin
  rw [step, if_pos hl, hin]

/-- Settles O51: the step is `powerOnReset` with the entry taken. -/
theorem powerOnResetKeepsOutsideWorld : Obligations.PowerOnResetKeepsOutsideWorld :=
  fun _ _ => step_of_powerOnReset

end Sys2Proof.Machine
end

section
/-! SUPPORT. Settles the statements about what a command may write or emit on the whole machine: the
duties (10_state.md R36), the recorded TargetRange (60_exceptions.md R196), TFAULT
(42_thermocouple.md R147), where a command stops (20_memory.md R51), and that it commutes with a
tick (20_memory.md R61). -/

namespace Sys2Proof.Machine

/-! ### The command a step performs -/

theorem State.nextInstr_of_instr {s : State} {w : CmdWord} {rest : List Input} {i : Instr}
    (hin : s.inputs = .command w :: rest) (hdec : decode s.cfg w = .instr i) :
    s.nextInstr = some i := by
  rw [State.nextInstr_of_command hin, hdec]
  rfl

theorem State.nextInstr_of_illegal {s : State} {w : CmdWord} {rest : List Input} {why : IllegalWord}
    (hin : s.inputs = .command w :: rest) (hdec : decode s.cfg w = .illegal why) :
    s.nextInstr = none := by
  rw [State.nextInstr_of_command hin, hdec]
  rfl

/-! ### The duties -/

/-- Every command but MIX and MIX_MANUAL keeps the mixer and output stage. -/
theorem exec_pwm_of_ne {i : Instr} {s t : State} (h : exec i s = .next t) (hmix : ∀ c, i ≠ .mix c)
    (hman : ∀ a b, i ≠ .mixManual a b) : t.pwm = s.pwm := by
  cases i with
  | mix c => exact absurd rfl (hmix c)
  | mixManual a b => exact absurd rfl (hman a b)
  | pidCompute cur tgt => obtain ⟨_, _, _, rfl⟩ := exec_pidCompute_next.1 h; rfl
  | seqAdvance => obtain ⟨_, _, rfl⟩ := exec_seqAdvance_next.1 h; rfl
  | tcRead d => obtain ⟨_, _, _, _, rfl⟩ := exec_tcRead_next.1 h; rfl
  | readReg r => obtain ⟨_, _, rfl⟩ := exec_readReg_next.1 h; rfl
  | nop | pidSetGains | pidReset | seqReset => cases h; rfl

/-- A step that is no MIX, MIX_MANUAL or power-on reset keeps the output stage, or ticks it. -/
theorem step_pwm_of_no_mix {s t : State} (h : step s = .next t) (hreset : s.resetsNext = false)
    (hmix : ∀ c, s.nextInstr ≠ some (.mix c)) (hman : ∀ a b, s.nextInstr ≠ some (.mixManual a b)) :
    t.pwm = s.pwm ∨ t.pwm = pwmNext s.pwm := by
  obtain ⟨-, rfl⟩ | ⟨w, rest, i, hin, hdec, hexec⟩ | ⟨w, rest, why, -, -, rfl⟩ | ⟨rest, -, rfl⟩ |
    ⟨rest, hin, -⟩ := step_next_cases h
  · exact .inl rfl
  · rw [State.nextInstr_of_instr hin hdec] at hmix hman
    exact .inl (exec_pwm_of_ne (s := { s with inputs := rest }) hexec
      (fun c => ne_of_apply_ne some (hmix c)) (fun a b => ne_of_apply_ne some (hman a b)))
  · exact .inl rfl
  · exact .inr rfl
  · simp [State.resetsNext, hin] at hreset

/-- A tick of a channel with duty 0 turns its output off. -/
theorem IsChannel.out_pwmNext_of_duty_zero {duty : Pwm → BitVec 8} {out : Pwm → BitVec 1}
    (hch : IsChannel duty out) {o : Pwm} (h : duty o = 0) : out (pwmNext o) = 0 := by
  have hoff : out (pwmNext o) ≠ 1 := by rw [Ne, hch.out_pwmNext, h]; exact Nat.not_lt_zero _
  exact (BitVec.eq_zero_or_eq_one _).resolve_right hoff

/-- Settles O21: such a step keeps the output stage or ticks it, and a tick with duty 0 is off. -/
theorem heatersStayOffUntilMix : Obligations.HeatersStayOffUntilMix := by
  intro s t h hreset hmix hman
  obtain hpwm | hpwm := step_pwm_of_no_mix h hreset hmix hman
  · rw [hpwm]
    exact ⟨⟨rfl, rfl⟩, fun _ hout => hout, fun _ hout => hout⟩
  · rw [hpwm]
    exact ⟨⟨rfl, rfl⟩, fun hduty _ => isChannel_a.out_pwmNext_of_duty_zero hduty,
      fun hduty _ => isChannel_b.out_pwmNext_of_duty_zero hduty⟩

/-! ### TargetRange -/

/-- Every command but SEQ_ADVANCE keeps the recorded TargetRange. -/
theorem exec_targetRange_of_ne {i : Instr} {s t : State} (h : exec i s = .next t)
    (hi : i ≠ .seqAdvance) : t.targetRange = s.targetRange := by
  cases i with
  | seqAdvance => exact absurd rfl hi
  | pidCompute cur tgt => obtain ⟨_, _, _, rfl⟩ := exec_pidCompute_next.1 h; rfl
  | tcRead d => obtain ⟨_, _, _, _, rfl⟩ := exec_tcRead_next.1 h; rfl
  | readReg r => obtain ⟨_, _, rfl⟩ := exec_readReg_next.1 h; rfl
  | nop | pidSetGains | pidReset | seqReset | mix | mixManual => cases h; rfl

/-- SEQ_ADVANCE records TargetRange if its response has TGT_OVF, bit 26. -/
theorem exec_seqAdvance_targetRange {s t : State} (h : exec .seqAdvance s = .next t) :
    t.targetRange = (s.targetRange || t.rspData.getLsbD 26) := by
  obtain ⟨w, -, rfl⟩ := exec_seqAdvance_next.1 h
  rw [State.respond_rspData, seqData_getLsbD_overflow]
  rfl

/-- What a step does to the recorded TargetRange. -/
theorem step_targetRange_cases {s t : State} (h : step s = .next t) :
    (s.nextInstr = some .seqAdvance ∧ t.targetRange = (s.targetRange || t.rspData.getLsbD 26)) ∨
    (s.nextInstr ≠ some .seqAdvance ∧ t.targetRange = s.targetRange) := by
  obtain ⟨hin, rfl⟩ | ⟨w, rest, i, hin, hdec, hexec⟩ | ⟨w, rest, why, hin, hdec, rfl⟩ |
    ⟨rest, hin, rfl⟩ | ⟨rest, hin, rfl⟩ := step_next_cases h
  · exact .inr ⟨by simp [State.nextInstr, hin], rfl⟩
  · rw [State.nextInstr_of_instr hin hdec]
    by_cases hi : i = .seqAdvance
    · subst hi
      exact .inl ⟨rfl, exec_seqAdvance_targetRange (s := { s with inputs := rest }) hexec⟩
    · exact .inr ⟨mt Option.some.inj hi,
        exec_targetRange_of_ne (s := { s with inputs := rest }) hexec hi⟩
  · exact .inr ⟨by simp [State.nextInstr_of_illegal hin hdec], rfl⟩
  · exact .inr ⟨by simp [State.nextInstr, hin], rfl⟩
  · exact .inr ⟨by simp [State.nextInstr, hin], rfl⟩

/-- Settles O22: SEQ_ADVANCE adds TGT_OVF to the record, and every other step keeps it. -/
theorem targetRangeRecordedAndNeverCleared : Obligations.TargetRangeRecordedAndNeverCleared := by
  intro s t h
  obtain ⟨hnext, hrec⟩ | ⟨hnext, hrec⟩ := step_targetRange_cases h
  · rw [hrec]
    exact ⟨fun hs => by rw [hs, Bool.true_or], fun hs => by simp [hs, hnext]⟩
  · rw [hrec]
    exact ⟨id, fun hs => by simp [hs, hnext]⟩

/-! ### TFAULT -/

/-- A read's events follow from the code and the raw word of its response. -/
theorem tcReadNext_events (d : BitVec 4) (c : TcDev) (s : State) :
    (tcReadNext d c s).events =
      (if (tcReadNext d c s).rspData.extractLsb' 16 4 = 0#4 then []
        else [.tfault d ((tcReadNext d c s).rspData.extractLsb' 16 4)
          ((tcReadNext d c s).rspData.extractLsb' 32 16)]) := by
  obtain ⟨-, hcode, hraw⟩ := tcData_fields (sensorWord d s)
    (faultCode (classify s.cfg (sensorWord d s))) (tcValue s.cfg (sensorWord d s) c)
  simp only [tcReadNext, State.respond_events, State.respond_rspData, hcode, hraw]
  exact if_congr faultCode_eq_zero.symm rfl rfl

/-- Every command but TC_READ emits nothing. -/
theorem exec_events_of_ne {i : Instr} {s t : State} (h : exec i s = .next t)
    (hi : ∀ d, i ≠ .tcRead d) : t.events = [] := by
  cases i with
  | tcRead d => exact absurd rfl (hi d)
  | pidCompute cur tgt => obtain ⟨_, _, _, rfl⟩ := exec_pidCompute_next.1 h; rfl
  | seqAdvance => obtain ⟨_, _, rfl⟩ := exec_seqAdvance_next.1 h; rfl
  | readReg r => obtain ⟨_, _, rfl⟩ := exec_readReg_next.1 h; rfl
  | nop | pidSetGains | pidReset | seqReset | mix | mixManual => cases h; rfl

/-- Settles O24: a read's events follow from its response, and no other step emits a TFAULT. -/
theorem sensorFaultEventExactlyOnFaultedRead :
    Obligations.SensorFaultEventExactlyOnFaultedRead := by
  intro s t x rest h hin
  obtain ⟨hin', -⟩ | ⟨w, rest', i, hin', hdec, hexec⟩ | ⟨w, rest', why, hin', hdec, rfl⟩ |
    ⟨rest', hin', rfl⟩ | ⟨rest', hin', rfl⟩ := step_next_cases h
  · cases hin.symm.trans hin'
  · rw [State.nextInstr_of_instr hin' hdec]
    refine ⟨fun d hd => ?_, fun hd d c r => ?_⟩
    · cases hd
      obtain ⟨c, -, -, -, rfl⟩ := exec_tcRead_next.1 hexec
      exact tcReadNext_events d c _
    · rw [exec_events_of_ne hexec fun d => ne_of_apply_ne some (hd d)]
      exact List.not_mem_nil
  · simp [State.nextInstr_of_illegal hin' hdec]
  · simp [State.nextInstr, hin']
  · simp [State.nextInstr, hin']

/-! ### Where a command stops -/

/-- The only fault is IndexRange. -/
theorem fault_eq_indexRange (f : Fault) : f = .indexRange := by cases f; rfl

theorem exec_pidCompute_eq_fault {cur tgt : BitVec 16} {s : State} {f : Fault} :
    exec (.pidCompute cur tgt) s = .fault f ↔
      ¬ (s.pid.hidx.toNat < s.cfg.pidHistLen ∧ s.pid.hidx.toNat < s.pid.hist.length) := by
  rw [← histPushPopOldest_eq_none (v := cur), fault_eq_indexRange f]
  simp only [exec, execPidCompute]
  split <;> simp [*]

theorem exec_seqAdvance_eq_fault {s : State} {f : Fault} :
    exec .seqAdvance s = .fault f ↔ s.cfg.profile = [] := by
  rw [← auxStep_eq_none (cursorNext s.cfg s.seq), fault_eq_indexRange f]
  simp only [exec, execSeqAdvance]
  split <;> simp [*]

theorem exec_tcRead_eq_fault {d : BitVec 4} {s : State} {f : Fault} :
    exec (.tcRead d) s = .fault f ↔
      ¬ (d.toNat < s.cfg.numTc ∧ d.toNat < s.tc.length) ∨
      ∃ c, s.tc[d.toNat]? = some c ∧ ¬ c.WindowOk s.cfg ∧
        classify s.cfg (sensorWord d s) = .noFault := by
  rw [fault_eq_indexRange f]
  simp only [exec, execTcRead]
  cases hc : tcDev s d with
  | none => exact iff_of_true rfl (.inl (tcDev_eq_none.1 hc))
  | some c =>
    obtain ⟨hd, hget⟩ := tcDev_eq_some.1 hc
    have hlen := (List.getElem?_eq_some_iff.1 hget).1
    simp only [hget, hd, hlen, Option.some.injEq, exists_eq_left', and_self, not_true, false_or]
    split
    · next hw => exact iff_of_true rfl hw
    · next hw => exact iff_of_false nofun hw

theorem exec_readReg_eq_fault {r : Reg} {s : State} {f : Fault} :
    exec (.readReg r) s = .fault f ↔ regValue s r = none := by
  rw [fault_eq_indexRange f]
  simp only [exec, execReadReg]
  split <;> simp [*]

/-- A window entry has no value where the device or the entry does not exist. -/
theorem regValue_tcAvg_eq_none {s : State} {d : BitVec 4} {j : BitVec 3} :
    regValue s (.tcAvg d j) = none ↔ ¬ (d.toNat < s.cfg.numTc ∧
      ∃ c, s.tc[d.toNat]? = some c ∧ j.toNat < s.cfg.window ∧ j.toNat < c.avg.length) := by
  rw [regValue]
  cases hc : tcDev s d with
  | none =>
    refine iff_of_true rfl ?_
    rintro ⟨hd, c, hget, -⟩
    exact tcDev_eq_none.1 hc ⟨hd, (List.getElem?_eq_some_iff.1 hget).1⟩
  | some c =>
    obtain ⟨hd, hget⟩ := tcDev_eq_some.1 hc
    simp only [hget, hd, Option.some.injEq, exists_eq_left', true_and, Option.bind_some,
      Option.map_eq_none_iff, memRead_eq_none]

/-- Settles O25: each of the four faults exactly where a read of its memory gives no value. -/
theorem stopsExactlyOnIndexOutOfRange : Obligations.StopsExactlyOnIndexOutOfRange := by
  intro s f
  refine ⟨fun _ _ => exec_pidCompute_eq_fault, exec_seqAdvance_eq_fault,
    fun _ => exec_tcRead_eq_fault, fun r => ?_, fun i ⟨a, h⟩ => exec_ne_refused i s a h⟩
  rw [exec_readReg_eq_fault]
  cases r with
  | gains | pidInt | pidHidx | pidLastCmd | pidLastRaw | pidFlags | pidDshift | pidHistLen | seqIdx
  | seqRem | seqAcc | profileLen | chA | chB | pwmPhase | outs => simp [regValue]
  | tcLast d | tcAidx d | tcFault d | tcFcode d =>
    rw [regValue, Option.map_eq_none_iff, tcDev_eq_none]
  | tcAvg d j => exact regValue_tcAvg_eq_none
  | pidHist i => rw [regValue, Option.map_eq_none_iff, memRead_eq_none]
  | profile k =>
    rw [regValue, Option.map_eq_none_iff, memRead_eq_none, Params.profileLen, and_self]

/-! ### A tick commutes with a command -/

/-- No register but `PWM_PHASE` and OUTS is one a tick writes. -/
theorem regValue_pwmTick {r : Reg} (s : State) (hphase : r ≠ .pwmPhase) (houts : r ≠ .outs) :
    regValue (pwmTick s) r = regValue s r := by
  cases r with
  | pwmPhase => exact absurd rfl hphase
  | outs => exact absurd rfl houts
  | _ => rfl

/-- Settles O27: such a command reads nothing a tick writes, and writes nothing a tick reads. -/
theorem tickCommutesWithCommand : Obligations.TickCommutesWithCommand := by
  intro s t i hmix hman hphase houts h
  cases i with
  | mix c => exact absurd rfl (hmix c)
  | mixManual a b => exact absurd rfl (hman a b)
  | pidCompute cur tgt =>
    obtain ⟨old, hidx, hold, rfl⟩ := exec_pidCompute_next.1 h
    exact ⟨_, exec_pidCompute_next.2 ⟨old, hidx, hold, rfl⟩, rfl, rfl⟩
  | seqAdvance =>
    obtain ⟨w, hw, rfl⟩ := exec_seqAdvance_next.1 h
    exact ⟨_, exec_seqAdvance_next.2 ⟨w, hw, rfl⟩, rfl, rfl⟩
  | tcRead d =>
    obtain ⟨c, hd, hget, hwin, rfl⟩ := exec_tcRead_next.1 h
    exact ⟨_, exec_tcRead_next.2 ⟨c, hd, hget, hwin, rfl⟩, rfl, rfl⟩
  | readReg r =>
    obtain ⟨v, hv, rfl⟩ := exec_readReg_next.1 h
    rw [← regValue_pwmTick s (ne_of_apply_ne _ hphase) (ne_of_apply_ne _ houts)] at hv
    exact ⟨_, exec_readReg_next.2 ⟨v, hv, rfl⟩, rfl, rfl⟩
  | nop | pidSetGains | pidReset | seqReset => cases h; exact ⟨_, rfl, rfl, rfl⟩

end Sys2Proof.Machine
end

section
/-! SUPPORT. Commands performed one after the other, as `runInstrs` says (20_memory.md R60). -/

namespace Sys2Proof.Machine

theorem runInstrs_cons {i : Instr} {is : List Instr} {s t : State} (h : exec i s = .next t) :
    runInstrs (i :: is) s = runInstrs is t := by
  rw [runInstrs, h]

theorem runInstrs_singleton (i : Instr) (s : State) : runInstrs [i] s = exec i s := by
  rw [runInstrs]
  cases h : exec i s <;> rfl

/-- A run that goes on is continued from the state it reached. -/
theorem runInstrs_append {is js : List Instr} :
    ∀ {s u : State}, runInstrs is s = .next u → runInstrs (is ++ js) s = runInstrs js u := by
  induction is with
  | nil => rintro s u ⟨⟩; rfl
  | cons i is ih =>
    intro s u h
    rw [runInstrs] at h
    split at h
    · next t hexec => exact (runInstrs_cons hexec).trans (ih h)
    · cases h
    · cases h

end Sys2Proof.Machine
end

section
/-! SUPPORT. Settles the statement about the age of the derivative's sample (70_reset_and_hazards.md
R217): the ring holds the last `PID_HIST_LEN` samples of the whole history of samples, which starts
with as many `PID_ROOM`s. -/

namespace Sys2Proof.Machine

/-! ### The ring and the history of samples -/

/-- The ring of `n` entries holds the last `n` of the samples `l`, the sample number `k` in entry
`k % n`, and its index is where sample number `l.length` will go. -/
structure Pid.RingHolds (n : Nat) (l : List (BitVec 16)) (u : Pid) : Prop where
  length : u.hist.length = n
  enough : n ≤ l.length
  hidx : u.hidx.toNat = l.length % n
  sample : ∀ k, k < l.length → l.length ≤ k + n → u.hist[k % n]? = l[k]?

/-- A fresh ring holds `PID_ROOM` in every entry. -/
theorem Pid.powerOn_ringHolds (p : Params) :
    (Pid.powerOn p).RingHolds p.pidHistLen (List.replicate p.pidHistLen p.pidRoom) where
  length := List.length_replicate
  enough := List.length_replicate.ge
  hidx := by rw [List.length_replicate, Nat.mod_self]; rfl
  sample k hk _ := by
    rw [List.length_replicate] at hk
    rw [Nat.mod_eq_of_lt hk]
    rfl

/-- The entry at the index is the oldest of the samples held. -/
theorem Pid.RingHolds.oldest {n : Nat} {l : List (BitVec 16)} {u : Pid} (h : u.RingHolds n l)
    (hn : 0 < n) : u.hist[u.hidx.toNat]? = l[l.length - n]? := by
  have hle := h.enough
  rw [h.hidx, Nat.mod_eq_sub_mod hle]
  exact h.sample _ (by omega) (by omega)

/-- Sample numbers less than `n` apart lie in different entries. -/
theorem mod_ne_mod_of_lt {k m n : Nat} (hkm : k < m) (hmk : m < k + n) : m % n ≠ k % n := by
  intro heq
  have hdvd : n ∣ m - k := (Nat.modEq_iff_dvd' hkm.le).1 heq.symm
  have hle := Nat.le_of_dvd (by omega) hdvd
  omega

/-- To overwrite the oldest sample and advance the index is to take one more sample. -/
theorem Pid.RingHolds.push {n : Nat} {l : List (BitVec 16)} {u v : Pid} (h : u.RingHolds n l)
    (hpos : 0 < n) (h64 : n ≤ 64) {cur : BitVec 16}
    (hhist : v.hist = u.hist.set u.hidx.toNat cur)
    (hidx : v.hidx = BitVec.ofNat 6 ((u.hidx.toNat + 1) % n)) : v.RingHolds n (l ++ [cur]) where
  length := by rw [hhist, List.length_set, h.length]
  enough := h.enough.trans (by simp)
  hidx := by
    rw [hidx, hidx_next_toNat hpos h64, h.hidx, Nat.mod_add_mod, List.length_append,
      List.length_singleton]
  sample k hk hkn := by
    rw [List.length_append, List.length_singleton] at hk hkn
    rw [hhist, h.hidx]
    obtain hlt | rfl := Nat.lt_succ_iff_lt_or_eq.1 hk
    · rw [List.getElem?_set_ne (mod_ne_mod_of_lt hlt (by omega)), h.sample k hlt (by omega),
        List.getElem?_append_left hlt]
    · rw [List.getElem?_set_self (h.length.symm ▸ Nat.mod_lt _ hpos), List.getElem?_concat_length]

/-! ### A list of PID_COMPUTEs -/

/-- A PID_COMPUTE completes and takes its current temperature as one more sample. -/
theorem exec_pidCompute_ringHolds {s : State} {l : List (BitVec 16)} (hp : s.cfg.PidOk)
    (h : s.pid.RingHolds s.cfg.pidHistLen l) (cur tgt : BitVec 16) :
    ∃ t, exec (.pidCompute cur tgt) s = .next t ∧ t.cfg = s.cfg ∧
      t.pid.RingHolds s.cfg.pidHistLen (l ++ [cur]) := by
  obtain ⟨⟨hpos, h64⟩, -⟩ := hp
  have hidx : s.pid.hidx.toNat < s.cfg.pidHistLen := h.hidx ▸ Nat.mod_lt _ hpos
  obtain ⟨old, hold⟩ := memRead_of_lt h.length hidx
  exact ⟨_, exec_pidCompute_next.2 ⟨old, hidx, (memRead_eq_some.1 hold).2, rfl⟩, rfl,
    h.push hpos h64 rfl rfl⟩

theorem runInstrs_pidCompute_ringHolds {p : Params} (hp : p.PidOk)
    (calls : List (BitVec 16 × BitVec 16)) :
    ∀ {s : State} {l : List (BitVec 16)}, s.cfg = p → s.pid.RingHolds p.pidHistLen l →
      ∃ t, runInstrs (calls.map fun c => .pidCompute c.1 c.2) s = .next t ∧
        t.pid.RingHolds p.pidHistLen (l ++ calls.map Prod.fst) := by
  induction calls with
  | nil => exact fun {s l} _ h => ⟨s, rfl, by simpa using h⟩
  | cons c calls ih =>
    rintro s l rfl h
    obtain ⟨u, hu, hcfg, hring⟩ := exec_pidCompute_ringHolds hp h c.1 c.2
    obtain ⟨t, ht, hring'⟩ := ih hcfg hring
    exact ⟨t, (runInstrs_cons hu).trans ht, by simpa using hring'⟩

/-- After power-on reset and after PID_RESET the ring is fresh. -/
theorem ringHolds_of_fresh {s u : State}
    (hu : u = State.powerOn s.cfg ∨ exec .pidReset s = .next u) :
    u.cfg = s.cfg ∧
      u.pid.RingHolds s.cfg.pidHistLen (List.replicate s.cfg.pidHistLen s.cfg.pidRoom) := by
  have hfresh := Pid.powerOn_ringHolds s.cfg
  obtain rfl | h := hu
  · exact ⟨rfl, hfresh⟩
  · cases h
    exact ⟨rfl, { hfresh with }⟩

/-- Settles O34: the samples are `PID_HIST_LEN` times `PID_ROOM` and then those of the calls, and
the oldest held is the one `PID_HIST_LEN` from the end. -/
theorem derivativeSampleIsNCallsOld : Obligations.DerivativeSampleIsNCallsOld := by
  intro s u calls ⟨hp, _⟩ hu
  obtain ⟨hcfg, hfresh⟩ := ringHolds_of_fresh hu
  obtain ⟨t, hrun, hring⟩ := runInstrs_pidCompute_ringHolds hp calls hcfg hfresh
  have hold := hring.oldest hp.1.1
  simp only [List.length_append, List.length_replicate, List.length_map,
    Nat.add_sub_cancel_left] at hold
  refine ⟨t, hrun, fun hlt => ?_, fun hle => ?_⟩
  · rw [hold, List.getElem?_append_left (by rwa [List.length_replicate]),
      List.getElem?_replicate_of_lt hlt]
  · rw [hold, List.getElem?_append_right (by rwa [List.length_replicate]), List.length_replicate,
      List.getElem?_map]

end Sys2Proof.Machine
end

section
/-! SUPPORT. Settles the statements about a SEQ_ADVANCE with a step left (41_sequencer.md R121) and
a whole run of the profile (41_sequencer.md R129). The rates still to come at a cursor are a list,
from which a call takes the head. -/

namespace Sys2Proof.Machine

/-! ### A call with a step left -/

/-- Settles O37: the cursor after the call is `cursorNext_of_running`, and a cursor on a step is not
terminal. -/
theorem seqAdvanceWithinProfile : Obligations.SeqAdvanceWithinProfile := by
  intro s w hlen hw hrem
  have hlt := (List.getElem?_eq_some_iff.1 hw).1
  obtain ⟨hacc, hstay, hmove⟩ := cursorNext_of_running hlen hw hrem
  obtain ⟨t, h⟩ := exec_seqAdvance_of_ne_nil (List.length_pos_iff.1 (Nat.zero_lt_of_lt hlt))
  refine ⟨decode_cmdWord s.cfg 0x10 0 0 0, t, h, ?_⟩
  obtain ⟨v, -, rfl⟩ := exec_seqAdvance_next.1 h
  refine ⟨?_, hstay, hmove, rfl, ?_, rfl⟩
  · exact (congrArg BitVec.toInt hacc).trans (BitVec.toInt_ofInt ..)
  · rw [State.respond_rspData, seqData_getLsbD_terminal, ← Bool.not_eq_true, terminal_iff]
    omega

/-! ### The rates still to come -/

/-- The rate of each tick of one profile step. -/
def stepRates (w : RomWord) : List Int := List.replicate (romDur w).toNat (romRate w).toInt

/-- The rates of the ticks that the current step has left, at a cursor. -/
def currentRates (p : Params) (c : Cursor) : List Int :=
  match p.profile[c.idx.toNat]? with
  | some w => List.replicate c.rem.toNat (romRate w).toInt
  | none => []

/-- The rate of each tick that the profile has left at a cursor, in order. -/
def ratesLeft (p : Params) (c : Cursor) : List Int :=
  currentRates p c ++ (p.profile.drop (c.idx.toNat + 1)).flatMap stepRates

theorem ratesLeft_of_step {p : Params} {c : Cursor} {w : RomWord}
    (hw : p.profile[c.idx.toNat]? = some w) :
    ratesLeft p c = List.replicate c.rem.toNat (romRate w).toInt ++
      (p.profile.drop (c.idx.toNat + 1)).flatMap stepRates := by
  rw [ratesLeft, currentRates, hw]

theorem ratesLeft_of_end {p : Params} {c : Cursor} (h : p.profile.length ≤ c.idx.toNat) :
    ratesLeft p c = [] := by
  rw [ratesLeft, currentRates, List.getElem?_eq_none h, List.drop_eq_nil_of_le (by omega)]
  rfl

/-- At the start of a step, all of the profile from that step on is left. -/
theorem ratesLeft_of_whole_step {p : Params} {c : Cursor} {w : RomWord}
    (hw : p.profile[c.idx.toNat]? = some w) (hrem : c.rem = romDur w) :
    ratesLeft p c = (p.profile.drop c.idx.toNat).flatMap stepRates := by
  obtain ⟨hlt, rfl⟩ := List.getElem?_eq_some_iff.1 hw
  rw [ratesLeft_of_step hw, hrem, List.drop_eq_getElem_cons hlt, List.flatMap_cons]
  rfl

theorem ratesLeft_powerOn {p : Params} (h : p.ProfileOk) :
    ratesLeft p (Cursor.powerOn p) = tickRates p := by
  obtain ⟨w, hw, hrem⟩ := Cursor.powerOn_rem h
  exact ratesLeft_of_whole_step hw hrem

/-- A call at a step with ticks left takes that step's rate from the rates left. -/
theorem ratesLeft_cursorNext {p : Params} {c : Cursor} {w : RomWord} (hl : p.profile.length ≤ 255)
    (hw : p.profile[c.idx.toNat]? = some w) (hrem : c.rem ≠ 0) :
    ratesLeft p c = (romRate w).toInt :: ratesLeft p (cursorNext p c) := by
  obtain ⟨-, hstay, hmove⟩ := cursorNext_of_running hl hw hrem
  by_cases h1 : c.rem = 1
  · obtain ⟨hidx, hsome, hnone⟩ := hmove h1
    have hnext : ratesLeft p (cursorNext p c) =
        (p.profile.drop (c.idx.toNat + 1)).flatMap stepRates := by
      cases hn : p.profile[c.idx.toNat + 1]? with
      | some w' => rw [ratesLeft_of_whole_step (hidx ▸ hn) (hsome w' hn), hidx]
      | none =>
        have hge := List.getElem?_eq_none_iff.1 hn
        rw [ratesLeft_of_end (by omega), List.drop_eq_nil_of_le hge, List.flatMap_nil]
    rw [ratesLeft_of_step hw, hnext, h1]
    rfl
  · obtain ⟨hidx, hdec⟩ := hstay h1
    have hpos : c.rem.toNat ≠ 0 := fun e => hrem (BitVec.eq_of_toNat_eq e)
    have hsucc : c.rem.toNat = (cursorNext p c).rem.toNat + 1 := by omega
    rw [ratesLeft_of_step hw, ratesLeft_of_step (hidx ▸ hw), hidx, hsucc, List.replicate_succ,
      List.cons_append]

/-- What a call does at a cursor that meets the invariant: it takes the first of the rates left and
adds it, or none is left and the cursor stands still at the end of the table. -/
theorem cursorNext_rates {p : Params} {c : Cursor} (h : p.ProfileOk) (hc : cursorOk p c = true) :
    (∃ r, ratesLeft p c = r :: ratesLeft p (cursorNext p c) ∧ c.idx.toNat < p.profile.length ∧
      (cursorNext p c).acc = BitVec.ofInt 32 (c.acc.toInt + r)) ∨
    (ratesLeft p c = [] ∧ c.idx.toNat = p.profile.length ∧ cursorNext p c = c) := by
  obtain ⟨w, hw, hpos, -⟩ | ⟨hend, -⟩ := cursorOk_iff.1 hc
  · have hrem : c.rem ≠ 0 := fun e => by simp [e] at hpos
    exact .inl ⟨_, ratesLeft_cursorNext h.1.2 hw hrem, (List.getElem?_eq_some_iff.1 hw).1,
      (cursorNext_of_running h.1.2 hw hrem).1⟩
  · exact .inr ⟨ratesLeft_of_end hend.ge, hend, cursorNext_of_terminal hend.ge⟩

theorem idx_eq_length_iff {p : Params} {c : Cursor} (h : p.ProfileOk) (hc : cursorOk p c = true) :
    c.idx.toNat = p.profile.length ↔ ratesLeft p c = [] := by
  obtain ⟨r, hr, hlt, -⟩ | ⟨hnil, hend, -⟩ := cursorNext_rates h hc
  · exact iff_of_false hlt.ne (by rw [hr]; exact List.cons_ne_nil _ _)
  · exact iff_of_true hend hnil

/-! ### A run of SEQ_ADVANCEs -/

/-- The state `t` after `n` calls from a state whose accumulator is `acc` and whose profile has the
rates `l` left. -/
structure SeqRan (acc : BitVec 32) (l : List Int) (n : Nat) (t : State) : Prop where
  cursor : cursorOk t.cfg t.seq = true
  left : ratesLeft t.cfg t.seq = l.drop n
  sum : t.seq.acc.toInt = Int.bmod (acc.toInt + (l.take n).sum) (2 ^ 32)
  terminal : 1 ≤ n → (t.rspData.getLsbD 25 = true ↔ l.length < n)

theorem seqRan_zero {s : State} (hc : cursorOk s.cfg s.seq = true) :
    SeqRan s.seq.acc (ratesLeft s.cfg s.seq) 0 s where
  cursor := hc
  left := rfl
  sum := by
    rw [List.take_zero, List.sum_nil, Int.add_zero, ← BitVec.toInt_ofInt, BitVec.ofInt_toInt]
  terminal := nofun

/-- The cursor is at the end exactly when all of the rates have been taken. -/
theorem SeqRan.idx_eq_length_iff {acc : BitVec 32} {l : List Int} {n : Nat} {t : State}
    (hp : t.cfg.ProfileOk) (h : SeqRan acc l n t) :
    t.seq.idx.toNat = t.cfg.profile.length ↔ l.length ≤ n := by
  rw [Machine.idx_eq_length_iff hp h.cursor, h.left, List.drop_eq_nil_iff]

/-- The accumulator after one more call. -/
theorem SeqRan.cursorNext_acc {acc : BitVec 32} {l : List Int} {n : Nat} {s : State}
    (hp : s.cfg.ProfileOk) (h : SeqRan acc l n s) :
    (cursorNext s.cfg s.seq).acc.toInt = Int.bmod (acc.toInt + (l.take (n + 1)).sum) (2 ^ 32) := by
  obtain ⟨r, hr, -, hacc⟩ | ⟨hnil, -, hstill⟩ := cursorNext_rates hp h.cursor
  · have hget : l[n]? = some r := by rw [← List.head?_drop, ← h.left, hr]; rfl
    rw [hacc, BitVec.toInt_ofInt, h.sum, Int.bmod_add_bmod, List.take_add_one, hget,
      Option.toList_some, List.sum_append, List.sum_singleton, Int.add_assoc]
  · have hle : l.length ≤ n := List.drop_eq_nil_iff.1 (h.left ▸ hnil)
    rw [hstill, h.sum, List.take_of_length_le hle, List.take_of_length_le (by omega)]

theorem SeqRan.cursorNext_left {acc : BitVec 32} {l : List Int} {n : Nat} {s : State}
    (hp : s.cfg.ProfileOk) (h : SeqRan acc l n s) :
    ratesLeft s.cfg (cursorNext s.cfg s.seq) = l.drop (n + 1) := by
  rw [← List.tail_drop, ← h.left]
  obtain ⟨r, hr, -⟩ | ⟨hnil, -, hstill⟩ := cursorNext_rates hp h.cursor
  · rw [hr, List.tail_cons]
  · rw [hstill, hnil, List.tail_nil]

/-- One more call. -/
theorem SeqRan.succ {acc : BitVec 32} {l : List Int} {n : Nat} {s t : State} (hp : s.cfg.ProfileOk)
    (h : SeqRan acc l n s) (hexec : exec .seqAdvance s = .next t) : SeqRan acc l (n + 1) t := by
  obtain ⟨w, -, rfl⟩ := exec_seqAdvance_next.1 hexec
  have hend : s.seq.idx.toNat ≤ s.cfg.profile.length := by
    obtain ⟨r, -, hlt, -⟩ | ⟨-, heq, -⟩ := cursorNext_rates hp h.cursor
    · exact hlt.le
    · exact heq.le
  exact {
    cursor := cursorNext_ok hp h.cursor
    left := h.cursorNext_left hp
    sum := h.cursorNext_acc hp
    terminal := fun _ => by
      rw [State.respond_rspData, seqData_getLsbD_terminal, terminal_iff, hend.ge_iff_eq,
        h.idx_eq_length_iff hp, Nat.lt_succ_iff] }

theorem runInstrs_seqAdvance {s : State} (hp : s.cfg.ProfileOk) (hc : cursorOk s.cfg s.seq = true)
    (n : Nat) : ∃ t, runInstrs (List.replicate n .seqAdvance) s = .next t ∧ t.cfg = s.cfg ∧
      SeqRan s.seq.acc (ratesLeft s.cfg s.seq) n t := by
  induction n with
  | zero => exact ⟨s, rfl, rfl, seqRan_zero hc⟩
  | succ n ih =>
    obtain ⟨u, hrun, hcfg, hran⟩ := ih
    have hpu : u.cfg.ProfileOk := hcfg ▸ hp
    obtain ⟨t, hexec⟩ := exec_seqAdvance_of_ne_nil (List.length_pos_iff.1 hpu.1.1)
    refine ⟨t, ?_, (exec_cfg_inputs hexec).1.trans hcfg, hran.succ hpu hexec⟩
    rw [List.replicate_succ', runInstrs_append hrun, runInstrs_singleton, hexec]

/-- Settles O41: after power-on the rates left are those of all ticks, and each call takes one. -/
theorem seqRunFollowsProfile : Obligations.SeqRunFollowsProfile := by
  intro p n ⟨_, _, hp, _⟩
  obtain ⟨t, hrun, rfl, hran⟩ :=
    runInstrs_seqAdvance (s := State.powerOn p) hp (cursorOk_powerOn hp) n
  have hrates : ratesLeft t.cfg (Cursor.powerOn t.cfg) = tickRates t.cfg := ratesLeft_powerOn hp
  rw [← hrates]
  exact ⟨t, hrun, hran.sum, hran.terminal, hran.idx_eq_length_iff hp⟩

end Sys2Proof.Machine
end

section
/-! SUPPORT. Settles the statements about TC_READ (42_thermocouple.md R140 to R147): a faulted read,
a read without a fault, and that the sensor may answer any word. -/

namespace Sys2Proof.Machine

/-! ### The command word and the response -/

theorem decode_tcRead_word {p : Params} {d : BitVec 4} (hd : d.toNat < p.numTc) :
    decode p (0x20#8 ++ d ++ 0#52) = .instr (.tcRead d) := by
  have hword : cmdWord opTcRead d 0 0 = 0x20#8 ++ d ++ 0#52 := by
    apply BitVec.eq_of_toNat_eq
    simp only [cmdWord, opTcRead, toNat_append_eq, BitVec.ofNat_eq_ofNat, BitVec.toNat_ofNat]
    omega
  rw [← decode_cmdWord_tcRead hd, hword]

theorem tcReadNext_raw (d : BitVec 4) (c : TcDev) (s : State) :
    (tcReadNext d c s).rspData.extractLsb' 32 16 = sensorWord d s := by
  obtain ⟨-, -, hraw⟩ := tcData_fields (sensorWord d s)
    (faultCode (classify s.cfg (sensorWord d s))) (tcValue s.cfg (sensorWord d s) c)
  exact hraw

/-- The response with code 0: sixteen zeros between the raw word and the value. -/
theorem tcData_zero (raw : RawWord) (v : BitVec 16) :
    tcData raw 0 v = 0#16 ++ raw ++ 0#16 ++ v := by
  apply BitVec.eq_of_toNat_eq
  simp only [tcData, toNat_append_eq, BitVec.ofNat_eq_ofNat, BitVec.toNat_ofNat]
  omega

/-! ### A faulted read -/

/-- The sentinel by the fault's code: 4 is RANGE. -/
theorem sentinel_eq (p : Params) (k : FaultKind) :
    sentinel p k = if faultCode k = 4 then p.sRange else p.sPattern := by
  cases k <;> rfl

theorem tcReadNext_of_fault {d : BitVec 4} {c : TcDev} {s : State}
    (h : classify s.cfg (sensorWord d s) ≠ .noFault) :
    tcReadNext d c s =
      (s.afterDraw.setTc d (tcReject (classify s.cfg (sensorWord d s)) c)).respond .sensorFault
        (tcData (sensorWord d s) (faultCode (classify s.cfg (sensorWord d s)))
          (sentinel s.cfg (classify s.cfg (sensorWord d s))))
        [.tfault d (faultCode (classify s.cfg (sensorWord d s))) (sensorWord d s)] := by
  simp only [tcReadNext, tcNext_of_fault h, tcStatus, tcValue, tcEvents, if_neg h]

/-- Settles O42: the code is that of the fault the word is classified as, and a faulted read writes
the flag and the code of the device alone. -/
theorem faultedRead : Obligations.FaultedRead := by
  intro s d c code hd hget hcode hne
  have hclass : code = faultCode (classify s.cfg (sensorWord d s)) :=
    hcode.trans (faultCode_classify _ _).symm
  have hfault : classify s.cfg (sensorWord d s) ≠ .noFault := by
    rwa [hclass, Ne, faultCode_eq_zero] at hne
  refine ⟨decode_tcRead_word hd,
    exec_tcRead_next.2 ⟨c, hd, hget, fun h => absurd h hfault, ?_⟩⟩
  rw [tcReadNext_of_fault hfault, sentinel_eq, ← hclass, tcReject, ← hclass]
  rfl

/-! ### A read without a fault -/

theorem tcReadNext_of_noFault {d : BitVec 4} {c : TcDev} {s : State}
    (h : classify s.cfg (sensorWord d s) = .noFault) :
    tcReadNext d c s = (s.afterDraw.setTc d (tcAccept s.cfg (sensorWord d s) c)).respond .ok
      (tcData (sensorWord d s) 0 (avgMean s.cfg (tcAccept s.cfg (sensorWord d s) c))) [] := by
  simp only [tcReadNext, tcNext_of_noFault h, tcValue_of_noFault h, tcStatus, tcEvents, if_pos h,
    faultCode_eq_zero.2 h]

/-- A word with no fault pattern in its masked bits and its reading in the band is no fault. -/
theorem classify_eq_noFault {p : Params} {raw : RawWord} (hzero : maskedWord p raw ≠ 0)
    (hones : maskedWord p raw ≠ p.tcMask) (hopen : (maskedWord p raw).getLsbD p.tcOpenBit = false)
    (hband : InBand p (reading p raw)) : classify p raw = .noFault := by
  have hin : ¬ ((reading p raw).toNat < p.tcMin ∨ (reading p raw).toNat > p.tcMax) := by omega
  have hclosed : ¬ (maskedWord p raw).getLsbD p.tcOpenBit = true := Bool.not_eq_true _ ▸ hopen
  simp only [classify, if_neg hzero, if_neg hones, if_neg hclosed, if_neg hin]

/-- Settles O43: the read accepts the reading, and the value is the mean of the window with the
reading pushed. -/
theorem goodRead : Obligations.GoodRead := by
  intro s d c v hlog hd hget hlen haidx ⟨hzero, hones, hopen, hv, hmin, hmax⟩
  obtain rfl : v = reading s.cfg (sensorWord d s) :=
    BitVec.eq_of_toNat_eq (hv.trans (reading_toNat _ _).symm)
  have hclass := classify_eq_noFault hzero hones hopen ⟨hmin, hmax⟩
  have hexec := exec_tcRead_next.2 ⟨c, hd, hget, fun _ => ⟨hlen, haidx⟩, rfl⟩
  rw [tcReadNext_of_noFault hclass] at hexec
  refine ⟨decode_tcRead_word hd, _, tcAccept s.cfg (sensorWord d s) c, hexec, rfl,
    aidx_next_toNat hlog _, rfl, rfl, rfl, ?_, ?_, rfl⟩
  all_goals
    rw [State.respond_rspData, (tcData_fields _ _ _).1]
  · exact avgMean_toNat ((avgPush_length s.cfg _ c).trans hlen)
  · exact tcData_zero _ _

/-! ### Any word -/

/-- Settles O45: a read of an existing device completes under the invariant, which does not speak of
the sensors, and reports the word it was answered. -/
theorem sensorMayAnswerAnyWord : Obligations.SensorMayAnswerAnyWord := by
  intro s d w rest h hd
  have hinv : ({ s with sensors :=
    { first := w.extractLsb' 8 8, second := w.extractLsb' 0 8 } :: rest } : State).Inv := { h with }
  obtain ⟨t, hexec⟩ := exec_next_of_inv (i := .tcRead d) hinv (decide_eq_true hd)
  refine ⟨t, hexec, ?_⟩
  obtain ⟨c, -, -, -, rfl⟩ := exec_tcRead_next.1 hexec
  refine ⟨?_, rfl⟩
  rw [tcReadNext_raw, sensorWord_of_listed rfl]
  exact append_bytes_eq w

end Sys2Proof.Machine
end

section
/-! SUPPORT. Settles the statement that MIX is monotone (43_mixer_pwm.md R161), from its closed
form. -/

namespace Sys2Proof.Machine

/-- A larger command gives no smaller duty on either channel. -/
theorem mix_toNat_mono {c e : BitVec 8} (h : c.toNat ≤ e.toNat) :
    (mixA c).toNat ≤ (mixA e).toNat ∧ (mixB c).toNat ≤ (mixB e).toNat := by
  obtain hc | hc := le_or_gt c.toNat 169
  · obtain ⟨hca, hcb⟩ := mix_toNat_of_le hc
    obtain he' | he' := le_or_gt e.toNat 169
    · obtain ⟨hea, heb⟩ := mix_toNat_of_le he'
      omega
    · obtain ⟨hea, heb⟩ := mix_toNat_of_gt he'
      have hb : (mixB c).toNat < 256 := (mixB c).isLt
      rw [heb]
      constructor
      · split at hea <;> omega
      · exact Nat.le_of_lt_succ hb
  · obtain ⟨hca, hcb⟩ := mix_toNat_of_gt hc
    obtain ⟨hea, heb⟩ := mix_toNat_of_gt (hc.trans_le h)
    rw [hcb, heb]
    constructor
    · split at hca <;> split at hea <;> omega
    · exact le_rfl

/-- Settles O47: the end points are evaluated, and the closed form grows with the command. -/
theorem mixIsMonotone : Obligations.MixIsMonotone := by
  intro s t u c e hs hu
  cases hs
  cases hu
  refine ⟨?_, ?_, mix_toNat_mono⟩
  · rintro rfl
    exact (by decide : mixA 0 = 0 ∧ mixB 0 = 0)
  · rintro rfl
    exact (by decide : mixA 255 = 255 ∧ mixB 255 = 255)

end Sys2Proof.Machine
end

section
/-! SUPPORT. Settles the statement about the pseudo-instructions (30_encoding.md R82): to take the
word of a command that exists is to perform it. -/

namespace Sys2Proof.Machine

theorem takeCommand_encode {s : State} {i : Instr} (hl : s.cfg.Legal) (hi : i.wf s.cfg = true) :
    takeCommand (encode i) s = exec i s :=
  takeCommand_of_instr (decode_encode hl hi)

/-- A list of words of existing commands is the run of those commands: a command keeps the
configuration, so the commands after it still exist. -/
theorem takeCommands_encode {is : List Instr} :
    ∀ {s : State}, s.cfg.Legal → (∀ i ∈ is, i.wf s.cfg = true) →
      takeCommands (is.map encode) s = runInstrs is s := by
  induction is with
  | nil => exact fun _ _ => rfl
  | cons i is ih =>
    intro s hl hwf
    obtain ⟨hi, his⟩ := List.forall_mem_cons.1 hwf
    rw [List.map_cons, takeCommands, takeCommand_encode hl hi, runInstrs]
    cases hexec : exec i s with
    | next t =>
      have hcfg := (exec_cfg_inputs hexec).1
      exact ih (hcfg ▸ hl) (hcfg ▸ his)
    | fault f => rfl
    | refused a => rfl

/-- A pseudo-instruction of one command is that command. -/
theorem runPseudo_of_single {q : Pseudo} {i : Instr} {s : State} (hl : s.cfg.Legal)
    (hi : i.wf s.cfg = true)
    (hq : runPseudo q s = takeCommands ([i].map encode) s) : runPseudo q s = exec i s := by
  rw [hq, takeCommands_encode hl (List.forall_mem_singleton.2 hi), runInstrs_singleton]

/-- The power a PID_COMPUTE responds with is the one it writes. -/
theorem responsePower_of_pidCompute {s t : State} {cur tgt : BitVec 16}
    (h : exec (.pidCompute cur tgt) s = .next t) : responsePower t = t.pid.lastCmd := by
  obtain ⟨old, raw, hc⟩ := pidComputed_of_exec h
  exact hc.response.1

/-- Settles O50: the words of a pseudo-instruction are those of existing commands, and CONTROL's
power is the one its PID_COMPUTE wrote. -/
theorem pseudoInstructionsExpand : Obligations.PseudoInstructionsExpand := by
  intro s hl
  refine ⟨fun cur tgt t h => ?_, fun kp ki kd => runPseudo_of_single hl rfl rfl,
    fun a b => runPseudo_of_single hl rfl rfl, runPseudo_of_single hl rfl rfl,
    runPseudo_of_single hl rfl rfl, fun htc => ?_⟩
  · have hcfg := (exec_cfg_inputs h).1
    rw [runPseudo, takeCommand_encode hl rfl, h]
    rw [← responsePower_of_pidCompute h]
    exact takeCommand_encode (i := .mix _) (hcfg ▸ hl) rfl
  · refine takeCommands_encode hl (List.forall_mem_cons.2 ⟨?_, List.forall_mem_singleton.2 ?_⟩)
    · exact decide_eq_true (show (0#4).toNat < s.cfg.numTc from Nat.zero_lt_of_lt htc)
    · exact decide_eq_true (show (1#4).toNat < s.cfg.numTc from htc)

end Sys2Proof.Machine
end
